-- ==== Sys2Proof/Word.lean ====
section
/-! DEFINITION. The two word types of the core: the 8-bit data width and the 16-bit address and pair width (spec 00 R6). -/

namespace Sys2Proof

/-- An 8-bit value: a register, a memory byte, an opcode byte. -/
abbrev Byte := BitVec 8

/-- A 16-bit value: a register pair, IX, IY, SP, PC, a memory or port address. -/
abbrev Word := BitVec 16

end Sys2Proof
end

