-- ==== Sys2Proof/Syntax.lean ====
section
/-! DEFINITION. Syntax: the operand types, the instruction type `Instr` (one constructor per mnemonic of
spec/opcode_table.json, log entry 13), and the decoder's own vocabulary of spec 30 R104 to R107
(mnemonics, operand names, table entries, the Instruction value). -/

namespace Sys2Proof

/-! ## Operands of Instr -/

/-- The register operands of the r table, 30 R113, without its (HL) entry. -/
inductive Reg8 where
  | b | c | d | e | h | l | a
  deriving DecidableEq, Repr, Inhabited

/-- An index register: IX (prefix DD) or IY (prefix FD). -/
inductive Idx where
  | ix | iy
  deriving DecidableEq, Repr, Inhabited

/-- The high or low half of an index register (IXH, IXL, IYH, IYL; 10 R22). -/
inductive Half where
  | hi | lo
  deriving DecidableEq, Repr, Inhabited

/-- The rp table, 30 R113. -/
inductive Rp where
  | bc | de | hl | sp
  deriving DecidableEq, Repr, Inhabited

/-- The rp2 table, 30 R113. -/
inductive Rp2 where
  | bc | de | hl | af
  deriving DecidableEq, Repr, Inhabited

/-- The pair operand of ADD X,rp, where rp[2] is X itself (43 R272). -/
inductive RpX where
  | bc | de | x | sp
  deriving DecidableEq, Repr, Inhabited

/-- The source of LD XH/XL,r under a DD/FD prefix: H and L are the halves of the same X (30 R130). -/
inductive XSrc where
  | b | c | d | e | xh | xl | a
  deriving DecidableEq, Repr, Inhabited

/-- The eight conditions, 10 R30. -/
inductive Cond where
  | nz | z | nc | c | po | pe | p | m
  deriving DecidableEq, Repr, Inhabited

/-! ## Instructions -/

/-- The instructions. Each constructor's comment gives its row of spec/opcode_table.json and its rule. -/
inductive Instr where
  | nop  -- NOP R344
  | ldRpNn (rp : Rp) (nn : Word)  -- LD rp,nn R210
  | ldAtRrA (rr : Rp)  -- LD (rr),A R207
  | incRp (rp : Rp)  -- INC rp R270
  | incR (r : Reg8)  -- INC r R268
  | decR (r : Reg8)  -- DEC r R269
  | ldRN (r : Reg8) (n : Byte)  -- LD r,n R202
  | rlca  -- RLCA R291
  | exAfAf  -- EX AF,AF' R218
  | addHlRp (rp : Rp)  -- ADD HL,rp R272
  | ldAAtRr (rr : Rp)  -- LD A,(rr) R206
  | decRp (rp : Rp)  -- DEC rp R271
  | rrca  -- RRCA R292
  | djnz (d : Byte)  -- DJNZ d R325
  | rla  -- RLA R293
  | jr (d : Byte)  -- JR d R323
  | rra  -- RRA R294
  | jrCc (cc : Cond) (d : Byte)  -- JR cc,d R324
  | ldAtNnHl (nn : Word)  -- LD (nn),HL R212
  | daa  -- DAA R275
  | ldHlAtNn (nn : Word)  -- LD HL,(nn) R211
  | cpl  -- CPL R276
  | ldAtNnA (nn : Word)  -- LD (nn),A R209
  | incAtHl  -- INC (HL) R268
  | decAtHl  -- DEC (HL) R269
  | ldAtHlN (n : Byte)  -- LD (HL),n R204
  | scf  -- SCF R278
  | ldAAtNn (nn : Word)  -- LD A,(nn) R208
  | ccf  -- CCF R279
  | ldRR (r r' : Reg8)  -- LD r,r' R201
  | nopEmpty  -- the empty entry R346
  | ldAtHlR (r : Reg8)  -- LD (HL),r R203
  | halt  -- HALT R347
  | addAR (r : Reg8)  -- ADD A,r R260
  | addAAtHl  -- ADD A,(HL) R260
  | adcAR (r : Reg8)  -- ADC A,r R261
  | adcAAtHl  -- ADC A,(HL) R261
  | subR (r : Reg8)  -- SUB r R262
  | subAtHl  -- SUB (HL) R262
  | sbcAR (r : Reg8)  -- SBC A,r R263
  | sbcAAtHl  -- SBC A,(HL) R263
  | andR (r : Reg8)  -- AND r R264
  | andAtHl  -- AND (HL) R264
  | xorR (r : Reg8)  -- XOR r R265
  | xorAtHl  -- XOR (HL) R265
  | orR (r : Reg8)  -- OR r R266
  | orAtHl  -- OR (HL) R266
  | cpR (r : Reg8)  -- CP r R267
  | cpAtHl  -- CP (HL) R267
  | retCc (cc : Cond)  -- RET cc R329
  | popRp2 (rp : Rp2)  -- POP rp2 R216
  | jpCc (cc : Cond) (nn : Word)  -- JP cc,nn R321
  | jp (nn : Word)  -- JP nn R320
  | callCc (cc : Cond) (nn : Word)  -- CALL cc,nn R327
  | pushRp2 (rp : Rp2)  -- PUSH rp2 R215
  | addAN (n : Byte)  -- ADD A,n R260
  | rst (p : Byte)  -- RST p R333
  | ret  -- RET R328
  | prefixCB  -- the CB prefix slot, 30 R122 step 5
  | call (nn : Word)  -- CALL nn R326
  | adcAN (n : Byte)  -- ADC A,n R261
  | outNA (n : Byte)  -- OUT (n),A R342
  | subN (n : Byte)  -- SUB n R262
  | exx  -- EXX R220
  | inAN (n : Byte)  -- IN A,(n) R340
  | prefixDD  -- the DD prefix slot, 30 R122 step 5
  | sbcAN (n : Byte)  -- SBC A,n R263
  | exAtSpHl  -- EX (SP),HL R219
  | andN (n : Byte)  -- AND n R264
  | jpHl  -- JP (HL) R322
  | exDeHl  -- EX DE,HL R217
  | prefixED  -- the ED prefix slot, 30 R122 step 5
  | xorN (n : Byte)  -- XOR n R265
  | di  -- DI R348
  | orN (n : Byte)  -- OR n R266
  | ldSpHl  -- LD SP,HL R222
  | ei  -- EI R349
  | prefixFD  -- the FD prefix slot, 30 R122 step 5
  | cpN (n : Byte)  -- CP n R267
  | rlcR (r : Reg8)  -- RLC r R295
  | rlcAtHl  -- RLC (HL) R295
  | rrcR (r : Reg8)  -- RRC r R296
  | rrcAtHl  -- RRC (HL) R296
  | rlR (r : Reg8)  -- RL r R297
  | rlAtHl  -- RL (HL) R297
  | rrR (r : Reg8)  -- RR r R298
  | rrAtHl  -- RR (HL) R298
  | slaR (r : Reg8)  -- SLA r R299
  | slaAtHl  -- SLA (HL) R299
  | sraR (r : Reg8)  -- SRA r R300
  | sraAtHl  -- SRA (HL) R300
  | sllR (r : Reg8)  -- SLL r R301
  | sllAtHl  -- SLL (HL) R301
  | srlR (r : Reg8)  -- SRL r R302
  | srlAtHl  -- SRL (HL) R302
  | bitR (b : BitVec 3) (r : Reg8)  -- BIT b,r R303
  | bitAtHl (b : BitVec 3)  -- BIT b,(HL) R303
  | resR (b : BitVec 3) (r : Reg8)  -- RES b,r R304
  | resAtHl (b : BitVec 3)  -- RES b,(HL) R304
  | setR (b : BitVec 3) (r : Reg8)  -- SET b,r R305
  | setAtHl (b : BitVec 3)  -- SET b,(HL) R305
  | noni  -- NONI R345
  | inRC (r : Reg8)  -- IN r,(C) R341
  | outCR (r : Reg8)  -- OUT (C),r R343
  | sbcHlRp (rp : Rp)  -- SBC HL,rp R274
  | ldAtNnRp (rp : Rp) (nn : Word)  -- LD (nn),rp R213
  | neg  -- NEG R277
  | retn  -- RETN R331
  | im (i : BitVec 2)  -- IM i R350
  | ldIA  -- LD I,A R351
  | adcHlRp (rp : Rp)  -- ADC HL,rp R273
  | ldRpAtNn (rp : Rp) (nn : Word)  -- LD rp,(nn) R221
  | reti  -- RETI R332
  | ldRA  -- LD R,A R352
  | ldAI  -- LD A,I R353
  | ldAR  -- LD A,R R354
  | rrd  -- RRD R319
  | rld  -- RLD R318
  | inC  -- IN (C) R341
  | outC0  -- OUT (C),0 R343
  | ldi  -- LDI R242
  | cpi  -- CPI R246
  | ini  -- INI R250
  | outi  -- OUTI R254
  | ldd  -- LDD R243
  | cpd  -- CPD R247
  | ind  -- IND R251
  | outd  -- OUTD R255
  | ldir  -- LDIR R244
  | cpir  -- CPIR R248
  | inir  -- INIR R252
  | otir  -- OTIR R256
  | lddr  -- LDDR R245
  | cpdr  -- CPDR R249
  | indr  -- INDR R253
  | otdr  -- OTDR R257
  | addXRp (x : Idx) (rp : RpX)  -- ADD X,rp R272
  | ldXNn (x : Idx) (nn : Word)  -- LD X,nn R210
  | ldAtNnX (x : Idx) (nn : Word)  -- LD (nn),X R212
  | incX (x : Idx)  -- INC X R270
  | incXHalf (x : Idx) (h : Half)  -- INC XH/XL R268
  | decXHalf (x : Idx) (h : Half)  -- DEC XH/XL R269
  | ldXHalfN (x : Idx) (h : Half) (n : Byte)  -- LD XH/XL,n R202
  | ldXAtNn (x : Idx) (nn : Word)  -- LD X,(nn) R211
  | decX (x : Idx)  -- DEC X R271
  | incAtXd (x : Idx) (d : Byte)  -- INC (X+d) R268
  | decAtXd (x : Idx) (d : Byte)  -- DEC (X+d) R269
  | ldAtXdN (x : Idx) (d n : Byte)  -- LD (X+d),n R204
  | ldRXHalf (r : Reg8) (x : Idx) (h : Half)  -- LD r,XH/XL R201
  | ldXHalfR (x : Idx) (h : Half) (src : XSrc)  -- LD XH/XL,r R201
  | ldAtXdR (x : Idx) (d : Byte) (r : Reg8)  -- LD (X+d),r R203
  | ldAtXdXHalf (x : Idx) (d : Byte) (h : Half)  -- LD (X+d),XH/XL R203
  | addAXHalf (x : Idx) (h : Half)  -- ADD A,XH/XL R260
  | addAAtXd (x : Idx) (d : Byte)  -- ADD A,(X+d) R260
  | adcAXHalf (x : Idx) (h : Half)  -- ADC A,XH/XL R261
  | adcAAtXd (x : Idx) (d : Byte)  -- ADC A,(X+d) R261
  | subXHalf (x : Idx) (h : Half)  -- SUB XH/XL R262
  | subAtXd (x : Idx) (d : Byte)  -- SUB (X+d) R262
  | sbcAXHalf (x : Idx) (h : Half)  -- SBC A,XH/XL R263
  | sbcAAtXd (x : Idx) (d : Byte)  -- SBC A,(X+d) R263
  | andXHalf (x : Idx) (h : Half)  -- AND XH/XL R264
  | andAtXd (x : Idx) (d : Byte)  -- AND (X+d) R264
  | xorXHalf (x : Idx) (h : Half)  -- XOR XH/XL R265
  | xorAtXd (x : Idx) (d : Byte)  -- XOR (X+d) R265
  | orXHalf (x : Idx) (h : Half)  -- OR XH/XL R266
  | orAtXd (x : Idx) (d : Byte)  -- OR (X+d) R266
  | cpXHalf (x : Idx) (h : Half)  -- CP XH/XL R267
  | cpAtXd (x : Idx) (d : Byte)  -- CP (X+d) R267
  | popX (x : Idx)  -- POP X R216
  | exAtSpX (x : Idx)  -- EX (SP),X R219
  | pushX (x : Idx)  -- PUSH X R215
  | jpX (x : Idx)  -- JP (X) R322
  | ldSpX (x : Idx)  -- LD SP,X R222
  | rlcAlt (x : Idx) (d : Byte) (r : Reg8)  -- RLC_ALT r,(X+d) R308
  | rlcAtXd (x : Idx) (d : Byte)  -- RLC (X+d) R306
  | rrcAlt (x : Idx) (d : Byte) (r : Reg8)  -- RRC_ALT r,(X+d) R309
  | rrcAtXd (x : Idx) (d : Byte)  -- RRC (X+d) R306
  | rlAlt (x : Idx) (d : Byte) (r : Reg8)  -- RL_ALT r,(X+d) R310
  | rlAtXd (x : Idx) (d : Byte)  -- RL (X+d) R306
  | rrAlt (x : Idx) (d : Byte) (r : Reg8)  -- RR_ALT r,(X+d) R311
  | rrAtXd (x : Idx) (d : Byte)  -- RR (X+d) R306
  | slaAlt (x : Idx) (d : Byte) (r : Reg8)  -- SLA_ALT r,(X+d) R312
  | slaAtXd (x : Idx) (d : Byte)  -- SLA (X+d) R306
  | sraAlt (x : Idx) (d : Byte) (r : Reg8)  -- SRA_ALT r,(X+d) R313
  | sraAtXd (x : Idx) (d : Byte)  -- SRA (X+d) R306
  | sllAlt (x : Idx) (d : Byte) (r : Reg8)  -- SLL_ALT r,(X+d) R314
  | sllAtXd (x : Idx) (d : Byte)  -- SLL (X+d) R306
  | srlAlt (x : Idx) (d : Byte) (r : Reg8)  -- SRL_ALT r,(X+d) R315
  | srlAtXd (x : Idx) (d : Byte)  -- SRL (X+d) R306
  | bitAtXd (b : BitVec 3) (x : Idx) (d : Byte)  -- BIT b,(X+d) R303
  | resAlt (b : BitVec 3) (x : Idx) (d : Byte) (r : Reg8)  -- RES_ALT b,(X+d),r R316
  | resAtXd (b : BitVec 3) (x : Idx) (d : Byte)  -- RES b,(X+d) R306
  | setAlt (b : BitVec 3) (x : Idx) (d : Byte) (r : Reg8)  -- SET_ALT b,(X+d),r R317
  | setAtXd (b : BitVec 3) (x : Idx) (d : Byte)  -- SET b,(X+d) R306
  deriving DecidableEq, Repr, Inhabited

/-! ## The decoder's vocabulary -/

/-- The closed enumeration of 79 mnemonics, 30 R106. -/
inductive Mnemonic where
  | NOP | NONI | LD | PUSH | POP | EX | EXX
  | LDI | LDD | LDIR | LDDR | CPI | CPD | CPIR | CPDR | INI | IND | INIR | INDR | OUTI | OUTD | OTIR | OTDR
  | ADD | ADC | SUB | SBC | AND | XOR | OR | CP | INC | DEC | DAA | CPL | NEG | CCF | SCF
  | RLCA | RRCA | RLA | RRA | RLC | RRC | RL | RR | SLA | SRA | SLL | SRL | RLD | RRD
  | BIT | RES | SET
  | RLC_ALT | RRC_ALT | RL_ALT | RR_ALT | SLA_ALT | SRA_ALT | SLL_ALT | SRL_ALT | RES_ALT | SET_ALT
  | JP | JR | DJNZ | CALL | RET | RETI | RETN | RST
  | IN | OUT | HALT | DI | EI | IM
  deriving DecidableEq, Repr, Inhabited

/-- Operand names, 30 R105. `none` is the spec's `None`, `AF'` is the shadow pair. -/
inductive Operand where
  | A | B | C | D | E | H | L | I | R | IXH | IXL | IYH | IYL
  | AF | AF' | BC | DE | HL | SP | IX | IY | imm | none
  deriving DecidableEq, Repr, Inhabited

/-- A decode-table entry (`InstructionDetails`), 30 R107. `emptyEntry` marks the default entry of R139,
which the spec represents as NOP with no operands and the opcode table lists as a row of its own. -/
structure Entry where
  mnemonic   : Mnemonic
  dest       : Operand := .none
  addrDest   : Bool := false
  source     : Operand := .none
  addrSource : Bool := false
  cond       : Option Cond := none
  isIo       : Bool := false
  needDisp   : Bool := false
  immBytes   : Fin 3 := 0
  imm        : Word := 0
  emptyEntry : Bool := false
  deriving DecidableEq, Repr, Inhabited

/-- The decoder's output value (`Instruction`), 30 R104. -/
structure Decoded where
  mnemonic   : Mnemonic
  dest       : Operand
  addrDest   : Bool
  source     : Operand
  addrSource : Bool
  cond       : Option Cond
  disp       : Byte
  imm        : Word
  isIo       : Bool
  emptyEntry : Bool
  deriving DecidableEq, Repr, Inhabited

/-- The prefix the decoder has seen, 30 R120. -/
inductive Pfx where
  | none | CB | DD | ED | FD | DDCB | FDCB
  deriving DecidableEq, Repr, Inhabited

/-- Decoder progress state, 30 R120 (10 R38). `inflight` is the spec's `partial`. -/
structure Decoder where
  pfx          : Pfx
  inflight     : Option Decoded
  awaitDisp    : Bool
  immRemaining : Fin 3
  awaitHigh    : Bool
  altPending   : Bool
  altReg       : Option Idx
  deriving DecidableEq, Repr, Inhabited

end Sys2Proof
end

