-- ==== Sys2Proof/Config.lean ====
section
/-! DEFINITION. Config: the named parameters of spec 00 R7 as plain data (`Params`, a field of State that no step writes,
log entry 1), and the free values: constants with no body, so nothing can be proved of their values. -/

namespace Sys2Proof

/-- How undocumented flags are written: a fresh draw, or the named Zilog value (40 R177, R178). -/
inductive Undoc where
  | draw | z80
  deriving DecidableEq, Repr, Inhabited

/-- A region of the memory map: an inclusive address range, read-only or read-write (20 R60, R61). -/
structure Region where
  low      : Word
  high     : Word
  readOnly : Bool
  deriving DecidableEq, Repr, Inhabited

/-- The memory map: the registered regions in the order they are scanned (20 R60). -/
abbrev MemMap := List Region

/-- The port bytes that a device has claimed (20 R64). -/
abbrev PortMap := List Byte

/-- The implementation parameters, 00 R7. -/
structure Params where
  memMap      : MemMap
  ports       : PortMap
  undocF53    : Undoc
  undocFlags  : Undoc
  intNoVector : Byte
  deriving DecidableEq, Repr, Inhabited

/-- A recorded I/O event: the 16-bit port and the byte that moved (20 R66, R67). -/
inductive IoEvent where
  | read  (port : Word) (v : Byte)
  | write (port : Word) (v : Byte)
  deriving DecidableEq, Repr, Inhabited

/-- Free value: the bits drawn for undocumented flags (40 R177, R178; log entry 4). State counts the draws. -/
opaque Config.freeBit : Nat → Bool

/-- Free value: the device oracle of 20 R66. The answer may depend on the whole history of I/O events (log entry 5). -/
opaque Config.ioRead : List IoEvent → Word → Byte

/-- Free value: `EXTRA_T`, the internal T-cycles of an instruction; the flag says whether the branch or repetition of a
conditional or repeating form happened (70 R465; log entry 6). -/
opaque Config.extraT : Instr → Bool → Nat

end Sys2Proof
end

