-- ==== Sys2Proof/WellFormed.lean ====
section
/-! DEFINITION. WellFormed: the instructions that some word of the opcode table encodes. The types of `Instr` admit a few
operands no row admits; each check below names the rule that excludes them. -/

namespace Sys2Proof

/-- The pairs of LD (rr),A and LD A,(rr): BC and DE only (30 R118, x=0 z=2; 41 R206, R207). -/
def Rp.isBcDe : Rp → Bool
  | .bc | .de => true
  | .hl | .sp => false

/-- The conditions of JR cc,d: cc[y-4], y = 4..7 (45 R324). -/
def Cond.isJr : Cond → Bool
  | .nz | .z | .nc | .c => true
  | .po | .pe | .p | .m => false

/-- A register that the DD/FD rewrite leaves alone: not H, not L (30 R130). -/
def Reg8.notHL : Reg8 → Bool
  | .h | .l => false
  | .b | .c | .d | .e | .a => true

/-- A restart target: 0x00, 0x08, ..., 0x38 (45 R333). -/
def isRstTarget (p : Byte) : Bool := p &&& 0xC7#8 == 0#8

/-- Every check on the operands of an instruction; an instruction with no check of its own is well formed. -/
def Instr.wf : Instr → Bool
  | .ldAtRrA rr => rr.isBcDe
  | .ldAAtRr rr => rr.isBcDe
  | .jrCc cc _ => cc.isJr
  | .rst p => isRstTarget p
  | .ldRXHalf r _ _ => r.notHL
  | .ldAtXdR _ _ r => r.notHL
  | _ => true

end Sys2Proof
end

