-- ==== Sys2Proof/Decode.lean ====
section
/-! DEFINITION. Decode: opcode fields, the decode tables, the decoder automaton `Decoder.feed` (spec 30 R120 to R137), the
decoder over a list of bytes, and after it the encoder, both written from spec 30. -/

namespace Sys2Proof

/-! ## Bytes and fields -/

/-- Low byte of a 16-bit value. -/
def loByte (w : Word) : Byte := w.extractLsb' 0 8

/-- High byte of a 16-bit value. -/
def hiByte (w : Word) : Byte := w.extractLsb' 8 8

/-- `hi : lo`, 00 R9. -/
def joinBytes (hi lo : Byte) : Word := hi ++ lo

/-- Zero extension to 16 bits, 00 R9. -/
def zext16 (b : Byte) : Word := b.zeroExtend 16

/-- Sign extension to 16 bits, 00 R9. -/
def sext16 (b : Byte) : Word := b.signExtend 16

/-- Opcode fields, 30 R100: x = b[7:6]. -/
def fieldX (b : Byte) : Nat := b.toNat / 64
/-- y = b[5:3]. -/
def fieldY (b : Byte) : Nat := b.toNat / 8 % 8
/-- z = b[2:0]. -/
def fieldZ (b : Byte) : Nat := b.toNat % 8
/-- p = b[5:4] = y >> 1. -/
def fieldP (b : Byte) : Nat := fieldY b / 2
/-- q = b[3] = y & 1. -/
def fieldQ (b : Byte) : Nat := fieldY b % 2

/-! ## Operand and operation tables, 30 R113 and R114 -/

/-- r[i]: the operand name and its indirection flag; r[6] is (HL). -/
def tabR : Nat → Operand × Bool
  | 0 => (.B, false)
  | 1 => (.C, false)
  | 2 => (.D, false)
  | 3 => (.E, false)
  | 4 => (.H, false)
  | 5 => (.L, false)
  | 6 => (.HL, true)
  | _ => (.A, false)

/-- rp[p]. -/
def tabRp : Nat → Operand
  | 0 => .BC
  | 1 => .DE
  | 2 => .HL
  | _ => .SP

/-- rp2[p]. -/
def tabRp2 : Nat → Operand
  | 0 => .BC
  | 1 => .DE
  | 2 => .HL
  | _ => .AF

/-- cc[i]. -/
def tabCc : Nat → Cond
  | 0 => .nz
  | 1 => .z
  | 2 => .nc
  | 3 => .c
  | 4 => .po
  | 5 => .pe
  | 6 => .p
  | _ => .m

/-- alu[y]. -/
def tabAlu : Nat → Mnemonic
  | 0 => .ADD
  | 1 => .ADC
  | 2 => .SUB
  | 3 => .SBC
  | 4 => .AND
  | 5 => .XOR
  | 6 => .OR
  | _ => .CP

/-- rot[y]. -/
def tabRot : Nat → Mnemonic
  | 0 => .RLC
  | 1 => .RRC
  | 2 => .RL
  | 3 => .RR
  | 4 => .SLA
  | 5 => .SRA
  | 6 => .SLL
  | _ => .SRL

/-- acc[y]. -/
def tabAcc : Nat → Mnemonic
  | 0 => .RLCA
  | 1 => .RRCA
  | 2 => .RLA
  | 3 => .RRA
  | 4 => .DAA
  | 5 => .CPL
  | 6 => .SCF
  | _ => .CCF

/-- bli[a][b], 30 R114. -/
def tabBli : Nat → Nat → Mnemonic
  | 0, 0 => .LDI
  | 0, 1 => .CPI
  | 0, 2 => .INI
  | 0, _ => .OUTI
  | 1, 0 => .LDD
  | 1, 1 => .CPD
  | 1, 2 => .IND
  | 1, _ => .OUTD
  | 2, 0 => .LDIR
  | 2, 1 => .CPIR
  | 2, 2 => .INIR
  | 2, _ => .OTIR
  | _, 0 => .LDDR
  | _, 1 => .CPDR
  | _, 2 => .INDR
  | _, _ => .OTDR

/-! ## Decode tables -/

/-- The entry that yields no operation for an encoding the decoder does not define (30 R127, R129). -/
def noniEntry : Entry := { mnemonic := .NONI }

/-- The default entry of 30 R139: NOP, no operands, nothing pending. -/
def emptyNop : Entry := { mnemonic := .NOP, emptyEntry := true }

/-- `PlainDetails`, x = 0 (30 R118). -/
def plainX0 (b : Byte) : Entry :=
  let y := fieldY b
  let p := fieldP b
  match fieldZ b with
  | 0 =>
    match y with
    | 0 => { mnemonic := .NOP }
    | 1 => { mnemonic := .EX, dest := .AF, source := .AF' }
    | 2 => { mnemonic := .DJNZ, needDisp := true }
    | 3 => { mnemonic := .JR, needDisp := true }
    | _ => { mnemonic := .JR, cond := some (tabCc (y - 4)), needDisp := true }
  | 1 =>
    match fieldQ b with
    | 0 => { mnemonic := .LD, dest := tabRp p, source := .imm, immBytes := 2 }
    | _ => { mnemonic := .ADD, dest := .HL, source := tabRp p }
  | 2 =>
    match fieldQ b, p with
    | 0, 0 => { mnemonic := .LD, dest := .BC, addrDest := true, source := .A }
    | 0, 1 => { mnemonic := .LD, dest := .DE, addrDest := true, source := .A }
    | 0, 2 => { mnemonic := .LD, dest := .imm, addrDest := true, source := .HL, immBytes := 2 }
    | 0, _ => { mnemonic := .LD, dest := .imm, addrDest := true, source := .A, immBytes := 2 }
    | _, 0 => { mnemonic := .LD, dest := .A, source := .BC, addrSource := true }
    | _, 1 => { mnemonic := .LD, dest := .A, source := .DE, addrSource := true }
    | _, 2 => { mnemonic := .LD, dest := .HL, source := .imm, addrSource := true, immBytes := 2 }
    | _, _ => { mnemonic := .LD, dest := .A, source := .imm, addrSource := true, immBytes := 2 }
  | 3 =>
    match fieldQ b with
    | 0 => { mnemonic := .INC, dest := tabRp p }
    | _ => { mnemonic := .DEC, dest := tabRp p }
  | 4 => { mnemonic := .INC, dest := (tabR y).1, addrDest := (tabR y).2 }
  | 5 => { mnemonic := .DEC, dest := (tabR y).1, addrDest := (tabR y).2 }
  | 6 => { mnemonic := .LD, dest := (tabR y).1, addrDest := (tabR y).2, source := .imm, immBytes := 1 }
  | _ => { mnemonic := tabAcc y, dest := if y ≤ 5 then .A else .none }

/-- `PlainDetails`, x = 1 (30 R118, R139). -/
def plainX1 (b : Byte) : Entry :=
  let y := fieldY b
  let z := fieldZ b
  match z, y with
  | 6, 6 => { mnemonic := .HALT }
  | 6, _ => emptyNop
  | _, _ =>
    { mnemonic := .LD, dest := (tabR y).1, addrDest := (tabR y).2, source := (tabR z).1, addrSource := (tabR z).2 }

/-- `PlainDetails`, x = 3 (30 R118). The four prefix slots are never read here with a prefix of none (R122 step 5). -/
def plainX3 (b : Byte) : Entry :=
  let y := fieldY b
  let p := fieldP b
  match fieldZ b with
  | 0 => { mnemonic := .RET, cond := some (tabCc y) }
  | 1 =>
    match fieldQ b, p with
    | 0, _ => { mnemonic := .POP, dest := tabRp2 p }
    | _, 0 => { mnemonic := .RET }
    | _, 1 => { mnemonic := .EXX }
    | _, 2 => { mnemonic := .JP, source := .HL }
    | _, _ => { mnemonic := .LD, dest := .SP, source := .HL }
  | 2 => { mnemonic := .JP, cond := some (tabCc y), source := .imm, immBytes := 2 }
  | 3 =>
    match y with
    | 0 => { mnemonic := .JP, source := .imm, immBytes := 2 }
    | 1 => noniEntry
    | 2 => { mnemonic := .OUT, dest := .imm, source := .A, isIo := true, immBytes := 1 }
    | 3 => { mnemonic := .IN, dest := .A, source := .imm, isIo := true, immBytes := 1 }
    | 4 => { mnemonic := .EX, dest := .SP, addrDest := true, source := .HL }
    | 5 => { mnemonic := .EX, dest := .DE, source := .HL }
    | 6 => { mnemonic := .DI }
    | _ => { mnemonic := .EI }
  | 4 => { mnemonic := .CALL, cond := some (tabCc y), source := .imm, immBytes := 2 }
  | 5 =>
    match fieldQ b, p with
    | 0, _ => { mnemonic := .PUSH, source := tabRp2 p }
    | _, 0 => { mnemonic := .CALL, source := .imm, immBytes := 2 }
    | _, _ => noniEntry
  | 6 => { mnemonic := tabAlu y, dest := .A, source := .imm, immBytes := 1 }
  | _ => { mnemonic := .RST, source := .imm, imm := BitVec.ofNat 16 (y * 8) }

/-- `PlainDetails(b)`, 30 R118: the x field selects one of four strategies. -/
def plainDetails (b : Byte) : Entry :=
  match fieldX b with
  | 0 => plainX0 b
  | 1 => plainX1 b
  | 2 =>
    { mnemonic := tabAlu (fieldY b), dest := .A, source := (tabR (fieldZ b)).1, addrSource := (tabR (fieldZ b)).2 }
  | _ => plainX3 b

/-- `CBDetails(b)`, 30 R119. -/
def cbDetails (b : Byte) : Entry :=
  let y := fieldY b
  let r := tabR (fieldZ b)
  let bit : Word := BitVec.ofNat 16 y
  match fieldX b with
  | 0 => { mnemonic := tabRot y, dest := r.1, addrDest := r.2 }
  | 1 => { mnemonic := .BIT, dest := r.1, addrDest := r.2, source := .imm, imm := bit }
  | 2 => { mnemonic := .RES, dest := r.1, addrDest := r.2, source := .imm, imm := bit }
  | _ => { mnemonic := .SET, dest := r.1, addrDest := r.2, source := .imm, imm := bit }

/-- `EDDetails`, x = 1 (30 R126). -/
def edX1 (b : Byte) : Entry :=
  let y := fieldY b
  let p := fieldP b
  match fieldZ b with
  | 0 => { mnemonic := .IN, dest := if y = 6 then .none else (tabR y).1, source := .C, isIo := true }
  | 1 => { mnemonic := .OUT, dest := .C, source := if y = 6 then .none else (tabR y).1, isIo := true }
  | 2 =>
    match fieldQ b with
    | 0 => { mnemonic := .SBC, dest := .HL, source := tabRp p }
    | _ => { mnemonic := .ADC, dest := .HL, source := tabRp p }
  | 3 =>
    match fieldQ b with
    | 0 => { mnemonic := .LD, dest := .imm, addrDest := true, source := tabRp p, immBytes := 2 }
    | _ => { mnemonic := .LD, dest := tabRp p, source := .imm, addrSource := true, immBytes := 2 }
  | 4 => { mnemonic := .NEG, dest := .A }
  | 5 => { mnemonic := if y = 1 then .RETI else .RETN }
  | 6 => { mnemonic := .IM, source := .imm, imm := BitVec.ofNat 16 (y % 4) }
  | _ =>
    match y with
    | 0 => { mnemonic := .LD, dest := .I, source := .A }
    | 1 => { mnemonic := .LD, dest := .R, source := .A }
    | 2 => { mnemonic := .LD, dest := .A, source := .I }
    | 3 => { mnemonic := .LD, dest := .A, source := .R }
    | 4 => { mnemonic := .RRD, dest := .A, source := .HL, addrSource := true }
    | 5 => { mnemonic := .RLD, dest := .A, source := .HL, addrSource := true }
    | _ => { mnemonic := .NOP }

/-- `EDDetails(b)`, 30 R126 and R127. -/
def edDetails (b : Byte) : Entry :=
  match fieldX b with
  | 1 => edX1 b
  | 2 =>
    if fieldZ b ≤ 3 ∧ 4 ≤ fieldY b then
      { mnemonic := tabBli (fieldY b - 4) (fieldZ b), isIo := decide (2 ≤ fieldZ b) }
    else noniEntry
  | _ => noniEntry

/-! ## DD/FD rewrite -/

/-- The operand name of an index register and of its halves. -/
def Idx.operand : Idx → Operand
  | .ix => .IX
  | .iy => .IY

def Idx.operandHi : Idx → Operand
  | .ix => .IXH
  | .iy => .IYH

def Idx.operandLo : Idx → Operand
  | .ix => .IXL
  | .iy => .IYL

/-- One side of `Rewrite(e, X)`, 30 R130: HL, H and L become X, XH and XL. -/
def rewriteOperand (x : Idx) : Operand → Operand
  | .HL => x.operand
  | .H => x.operandHi
  | .L => x.operandLo
  | o => o

/-- `Rewrite(e, X)`, 30 R130 to R132. EX DE,HL is left untouched (R131); a rewritten HL whose indirection
flag is set forces a displacement (R132). -/
def rewriteEntry (e : Entry) (x : Idx) : Entry :=
  if e.mnemonic = .EX ∧ e.dest = .DE then e
  else
    { e with
      dest := rewriteOperand x e.dest
      source := rewriteOperand x e.source
      needDisp := e.needDisp || (e.addrDest && e.dest == .HL) || (e.addrSource && e.source == .HL) }

/-! ## From the decoder's value to the instruction -/

/-- A resolved operand side: the operand name with its indirection flag, 30 R105. -/
inductive Side where
  | nothing | imm | atImm | reg (r : Reg8) | half (x : Idx) (h : Half) | pair (rp : Rp) | atPair (rp : Rp)
  | idx (x : Idx) | atIdx (x : Idx) | regI | regR | af
  deriving DecidableEq, Repr

/-- The side that a name and an indirection flag denote. -/
def side (o : Operand) (ind : Bool) : Side :=
  match o with
  | .A => .reg .a
  | .B => .reg .b
  | .C => .reg .c
  | .D => .reg .d
  | .E => .reg .e
  | .H => .reg .h
  | .L => .reg .l
  | .I => .regI
  | .R => .regR
  | .IXH => .half .ix .hi
  | .IXL => .half .ix .lo
  | .IYH => .half .iy .hi
  | .IYL => .half .iy .lo
  | .AF => .af
  | .AF' => .af
  | .BC => if ind then .atPair .bc else .pair .bc
  | .DE => if ind then .atPair .de else .pair .de
  | .HL => if ind then .atPair .hl else .pair .hl
  | .SP => if ind then .atPair .sp else .pair .sp
  | .IX => if ind then .atIdx .ix else .idx .ix
  | .IY => if ind then .atIdx .iy else .idx .iy
  | .imm => if ind then .atImm else .imm
  | .none => .nothing

def Decoded.destSide (d : Decoded) : Side := side d.dest d.addrDest
def Decoded.sourceSide (d : Decoded) : Side := side d.source d.addrSource

/-- The 8-bit immediate and the bit number of the value. -/
def Decoded.imm8 (d : Decoded) : Byte := loByte d.imm
def Decoded.immBit (d : Decoded) : BitVec 3 := d.imm.extractLsb' 0 3

/-- LD, every form of 41 R200 to R222 and of 46 R351 to R354. ED 63 and ED 6B give the same value as 0x22 and
0x2A; the opcode table lists them as forms of LD (nn),rp and LD rp,(nn), so the prefix tells them apart. -/
def ldInstr (p : Pfx) (d : Decoded) : Instr :=
  match d.destSide, d.sourceSide with
  | .reg r, .reg r' => .ldRR r r'
  | .reg r, .half x h => .ldRXHalf r x h
  | .reg r, .imm => .ldRN r d.imm8
  | .reg .a, .atPair rr => .ldAAtRr rr
  | .reg .a, .atImm => .ldAAtNn d.imm
  | .reg .a, .regI => .ldAI
  | .reg .a, .regR => .ldAR
  | .regI, .reg .a => .ldIA
  | .regR, .reg .a => .ldRA
  | .half x h, .imm => .ldXHalfN x h d.imm8
  | .half x h, .reg .b => .ldXHalfR x h .b
  | .half x h, .reg .c => .ldXHalfR x h .c
  | .half x h, .reg .d => .ldXHalfR x h .d
  | .half x h, .reg .e => .ldXHalfR x h .e
  | .half x h, .reg .a => .ldXHalfR x h .a
  | .half x h, .half _ .hi => .ldXHalfR x h .xh
  | .half x h, .half _ .lo => .ldXHalfR x h .xl
  | .pair rp, .imm => .ldRpNn rp d.imm
  | .pair .sp, .pair .hl => .ldSpHl
  | .pair .sp, .idx x => .ldSpX x
  | .pair rp, .atImm => if p = .ED then .ldRpAtNn rp d.imm else .ldHlAtNn d.imm
  | .idx x, .imm => .ldXNn x d.imm
  | .idx x, .atImm => .ldXAtNn x d.imm
  | .atPair .hl, .reg r => .ldAtHlR r
  | .atPair rr, .reg .a => .ldAtRrA rr
  | .atPair .hl, .imm => .ldAtHlN d.imm8
  | .atIdx x, .reg r => .ldAtXdR x d.disp r
  | .atIdx x, .half _ h => .ldAtXdXHalf x d.disp h
  | .atIdx x, .imm => .ldAtXdN x d.disp d.imm8
  | .atImm, .reg .a => .ldAtNnA d.imm
  | .atImm, .pair rp => if p = .ED then .ldAtNnRp rp d.imm else .ldAtNnHl d.imm
  | .atImm, .idx x => .ldAtNnX x d.imm
  | _, _ => .noni

/-- The source forms of an 8-bit ALU operation with A, 43's preamble. -/
def aluInstr (d : Decoded) (r : Reg8 → Instr) (half : Idx → Half → Instr) (atHl : Instr)
    (atXd : Idx → Byte → Instr) (n : Byte → Instr) : Instr :=
  match d.sourceSide with
  | .reg q => r q
  | .half x h => half x h
  | .atPair .hl => atHl
  | .atIdx x => atXd x d.disp
  | .imm => n d.imm8
  | _ => .noni

/-- The operand forms of INC and DEC, 43 R268 to R271. -/
def incDecInstr (d : Decoded) (r : Reg8 → Instr) (half : Idx → Half → Instr) (atHl : Instr)
    (atXd : Idx → Byte → Instr) (rp : Rp → Instr) (idx : Idx → Instr) : Instr :=
  match d.destSide with
  | .reg q => r q
  | .half x h => half x h
  | .atPair .hl => atHl
  | .atIdx x => atXd x d.disp
  | .pair q => rp q
  | .idx x => idx x
  | _ => .noni

/-- The operand forms of the CB operations, 30 R119 and R146. -/
def cbInstr (d : Decoded) (r : Reg8 → Instr) (atHl : Instr) (atXd : Idx → Byte → Instr) : Instr :=
  match d.destSide with
  | .reg q => r q
  | .atPair .hl => atHl
  | .atIdx x => atXd x d.disp
  | _ => .noni

/-- The register-copy forms of DDCB/FDCB, 30 R137. -/
def altInstr (d : Decoded) (f : Idx → Byte → Reg8 → Instr) : Instr :=
  match d.destSide, d.sourceSide with
  | .reg r, .atIdx x => f x d.disp r
  | _, _ => .noni

/-- ADD, whose 16-bit forms write HL or X (43 R260, R272). -/
def addInstr (d : Decoded) : Instr :=
  match d.destSide, d.sourceSide with
  | .pair .hl, .pair rp => .addHlRp rp
  | .idx x, .pair .bc => .addXRp x .bc
  | .idx x, .pair .de => .addXRp x .de
  | .idx x, .pair .sp => .addXRp x .sp
  | .idx x, .idx _ => .addXRp x .x
  | _, _ => aluInstr d .addAR .addAXHalf .addAAtHl .addAAtXd .addAN

/-- ADC and SBC, whose 16-bit forms write HL (43 R261, R263, R273, R274). -/
def carryInstr (d : Decoded) (rp : Rp → Instr) (alu : Instr) : Instr :=
  match d.destSide, d.sourceSide with
  | .pair .hl, .pair q => rp q
  | _, _ => alu

def pushInstr (d : Decoded) : Instr :=
  match d.sourceSide with
  | .pair .bc => .pushRp2 .bc
  | .pair .de => .pushRp2 .de
  | .pair .hl => .pushRp2 .hl
  | .af => .pushRp2 .af
  | .idx x => .pushX x
  | _ => .noni

def popInstr (d : Decoded) : Instr :=
  match d.destSide with
  | .pair .bc => .popRp2 .bc
  | .pair .de => .popRp2 .de
  | .pair .hl => .popRp2 .hl
  | .af => .popRp2 .af
  | .idx x => .popX x
  | _ => .noni

def exInstr (d : Decoded) : Instr :=
  match d.destSide, d.sourceSide with
  | .af, _ => .exAfAf
  | .pair .de, _ => .exDeHl
  | .atPair .sp, .pair .hl => .exAtSpHl
  | .atPair .sp, .idx x => .exAtSpX x
  | _, _ => .noni

def jpInstr (d : Decoded) : Instr :=
  match d.sourceSide, d.cond with
  | .imm, none => .jp d.imm
  | .imm, some cc => .jpCc cc d.imm
  | .pair .hl, _ => .jpHl
  | .idx x, _ => .jpX x
  | _, _ => .noni

def inInstr (d : Decoded) : Instr :=
  match d.destSide, d.sourceSide with
  | .reg .a, .imm => .inAN d.imm8
  | .reg r, .reg _ => .inRC r
  | .nothing, _ => .inC
  | _, _ => .noni

def outInstr (d : Decoded) : Instr :=
  match d.destSide, d.sourceSide with
  | .imm, _ => .outNA d.imm8
  | .reg _, .reg r => .outCR r
  | .reg _, .nothing => .outC0
  | _, _ => .noni

/-- The instruction a finished value stands for. A value no decode path builds stands for NONI (30 R138). -/
def Decoded.toInstr (p : Pfx) (d : Decoded) : Instr :=
  match d.mnemonic with
  | .NOP => if d.emptyEntry then .nopEmpty else .nop
  | .NONI => .noni
  | .LD => ldInstr p d
  | .PUSH => pushInstr d
  | .POP => popInstr d
  | .EX => exInstr d
  | .EXX => .exx
  | .LDI => .ldi
  | .LDD => .ldd
  | .LDIR => .ldir
  | .LDDR => .lddr
  | .CPI => .cpi
  | .CPD => .cpd
  | .CPIR => .cpir
  | .CPDR => .cpdr
  | .INI => .ini
  | .IND => .ind
  | .INIR => .inir
  | .INDR => .indr
  | .OUTI => .outi
  | .OUTD => .outd
  | .OTIR => .otir
  | .OTDR => .otdr
  | .ADD => addInstr d
  | .ADC => carryInstr d .adcHlRp (aluInstr d .adcAR .adcAXHalf .adcAAtHl .adcAAtXd .adcAN)
  | .SUB => aluInstr d .subR .subXHalf .subAtHl .subAtXd .subN
  | .SBC => carryInstr d .sbcHlRp (aluInstr d .sbcAR .sbcAXHalf .sbcAAtHl .sbcAAtXd .sbcAN)
  | .AND => aluInstr d .andR .andXHalf .andAtHl .andAtXd .andN
  | .XOR => aluInstr d .xorR .xorXHalf .xorAtHl .xorAtXd .xorN
  | .OR => aluInstr d .orR .orXHalf .orAtHl .orAtXd .orN
  | .CP => aluInstr d .cpR .cpXHalf .cpAtHl .cpAtXd .cpN
  | .INC => incDecInstr d .incR .incXHalf .incAtHl .incAtXd .incRp .incX
  | .DEC => incDecInstr d .decR .decXHalf .decAtHl .decAtXd .decRp .decX
  | .DAA => .daa
  | .CPL => .cpl
  | .NEG => .neg
  | .CCF => .ccf
  | .SCF => .scf
  | .RLCA => .rlca
  | .RRCA => .rrca
  | .RLA => .rla
  | .RRA => .rra
  | .RLC => cbInstr d .rlcR .rlcAtHl .rlcAtXd
  | .RRC => cbInstr d .rrcR .rrcAtHl .rrcAtXd
  | .RL => cbInstr d .rlR .rlAtHl .rlAtXd
  | .RR => cbInstr d .rrR .rrAtHl .rrAtXd
  | .SLA => cbInstr d .slaR .slaAtHl .slaAtXd
  | .SRA => cbInstr d .sraR .sraAtHl .sraAtXd
  | .SLL => cbInstr d .sllR .sllAtHl .sllAtXd
  | .SRL => cbInstr d .srlR .srlAtHl .srlAtXd
  | .RLD => .rld
  | .RRD => .rrd
  | .BIT => cbInstr d (.bitR d.immBit) (.bitAtHl d.immBit) (.bitAtXd d.immBit)
  | .RES => cbInstr d (.resR d.immBit) (.resAtHl d.immBit) (.resAtXd d.immBit)
  | .SET => cbInstr d (.setR d.immBit) (.setAtHl d.immBit) (.setAtXd d.immBit)
  | .RLC_ALT => altInstr d .rlcAlt
  | .RRC_ALT => altInstr d .rrcAlt
  | .RL_ALT => altInstr d .rlAlt
  | .RR_ALT => altInstr d .rrAlt
  | .SLA_ALT => altInstr d .slaAlt
  | .SRA_ALT => altInstr d .sraAlt
  | .SLL_ALT => altInstr d .sllAlt
  | .SRL_ALT => altInstr d .srlAlt
  | .RES_ALT => altInstr d (.resAlt d.immBit)
  | .SET_ALT => altInstr d (.setAlt d.immBit)
  | .JP => jpInstr d
  | .JR => match d.cond with
    | none => .jr d.disp
    | some cc => .jrCc cc d.disp
  | .DJNZ => .djnz d.disp
  | .CALL => match d.cond with
    | none => .call d.imm
    | some cc => .callCc cc d.imm
  | .RET => match d.cond with
    | none => .ret
    | some cc => .retCc cc
  | .RETI => .reti
  | .RETN => .retn
  | .RST => .rst d.imm8
  | .IN => inInstr d
  | .OUT => outInstr d
  | .HALT => .halt
  | .DI => .di
  | .EI => .ei
  | .IM => .im (d.imm.extractLsb' 0 2)

/-! ## The automaton -/

/-- The empty state, 30 R120. -/
def Decoder.empty : Decoder :=
  { pfx := .none, inflight := none, awaitDisp := false, immRemaining := 0, awaitHigh := false,
    altPending := false, altReg := none }

/-- "Decoder expects an opcode", 30 R121. -/
def Decoder.expectsOpcode (s : Decoder) : Bool :=
  !s.altPending && !s.awaitDisp && s.immRemaining == 0

/-- The Instruction value that an entry starts, 30 R123. -/
def Entry.start (e : Entry) (disp : Byte) : Decoded :=
  { mnemonic := e.mnemonic, dest := e.dest, addrDest := e.addrDest, source := e.source,
    addrSource := e.addrSource, cond := e.cond, disp := disp, imm := e.imm, isIo := e.isIo,
    emptyEntry := e.emptyEntry }

/-- `partial` of the spec (30 R120). For a DDCB or FDCB prefix R136 starts it as NONI. DESIGN CHOICE (log entry 19): wherever
else nothing is under construction it counts as NONI too. -/
def Decoder.current (s : Decoder) : Decoded := s.inflight.getD (noniEntry.start 0)

/-- `Finalize()`, 30 R123. -/
def finalize (p : Pfx) (d : Decoded) : Decoder × Option Instr := (Decoder.empty, some (d.toInstr p))

/-- `Cache(e)`, 30 R123. -/
def Decoder.cache (s : Decoder) (e : Entry) : Decoder × Option Instr :=
  if e.needDisp = false ∧ e.immBytes = 0 then finalize s.pfx (e.start 0)
  else
    ({ s with inflight := some (e.start 0), awaitDisp := e.needDisp, immRemaining := e.immBytes,
              awaitHigh := false }, none)

/-- `AltPrefix(X)`, 30 R136. -/
def Decoder.altPrefix (s : Decoder) (x : Idx) : Decoder × Option Instr :=
  ({ s with
      pfx := match x with
        | .ix => .DDCB
        | .iy => .FDCB
      altReg := some x, inflight := some (noniEntry.start 0), awaitDisp := true, immRemaining := 0 }, none)

/-- `DecodeDDFD(b)`, 30 R128 and R129. -/
def Decoder.decodeDDFD (s : Decoder) (x : Idx) (b : Byte) : Decoder × Option Instr :=
  if b = 0xCB#8 then s.altPrefix x
  else if b = 0xDD#8 ∨ b = 0xED#8 ∨ b = 0xFD#8 then s.cache noniEntry
  else s.cache (rewriteEntry (plainDetails b) x)

/-- The `_ALT` name of a CB operation, 30 R137. BIT has none and is never asked for. -/
def Mnemonic.alt : Mnemonic → Mnemonic
  | .RLC => .RLC_ALT
  | .RRC => .RRC_ALT
  | .RL => .RL_ALT
  | .RR => .RR_ALT
  | .SLA => .SLA_ALT
  | .SRA => .SRA_ALT
  | .SLL => .SLL_ALT
  | .SRL => .SRL_ALT
  | .RES => .RES_ALT
  | .SET => .SET_ALT
  | m => m

/-- `ResolveAlt(b)`, 30 R137. DESIGN CHOICE (log entry 19): where `altReg` is none, which R120 allows and R137 says nothing of, X
is IX. No feed from the empty decoder gets there. -/
def Decoder.resolveAlt (s : Decoder) (b : Byte) : Decoder × Option Instr :=
  let e := cbDetails b
  let x := (s.altReg.getD .ix).operand
  let e' :=
    if fieldX b = 1 ∨ fieldZ b = 6 then { e with dest := x, addrDest := true }
    else
      { e with mnemonic := e.mnemonic.alt, dest := (tabR (fieldZ b)).1, addrDest := false,
               source := x, addrSource := true }
  finalize s.pfx (e'.start s.current.disp)

/-- The prefix that a prefix byte sets, 30 R122 step 5. -/
def prefixOf (b : Byte) : Option Pfx :=
  if b = 0xCB#8 then some .CB
  else if b = 0xDD#8 then some .DD
  else if b = 0xED#8 then some .ED
  else if b = 0xFD#8 then some .FD
  else none

/-- Steps 5 to 7 of `feed(b)`, 30 R122: an opcode or prefix byte. -/
def Decoder.feedOpcode (s : Decoder) (b : Byte) : Decoder × Option Instr :=
  match s.pfx with
  | .none =>
    match prefixOf b with
    | some p => ({ s with pfx := p }, none)
    | none => s.cache (plainDetails b)
  | .CB => s.cache (cbDetails b)
  | .ED => s.cache (edDetails b)
  | .DD => s.decodeDDFD .ix b
  | .FD => s.decodeDDFD .iy b
  | .DDCB => s.cache (plainDetails b)
  | .FDCB => s.cache (plainDetails b)

/-- `feed(b)`, 30 R122. The instruction is answered when its assembly completes; the progress state is then empty. -/
def Decoder.feed (s : Decoder) (b : Byte) : Decoder × Option Instr :=
  if s.altPending then s.resolveAlt b
  else if s.awaitDisp then
    let d := { s.current with disp := b }
    let s' := { s with inflight := some d, awaitDisp := false }
    if s.pfx = .DDCB ∨ s.pfx = .FDCB then ({ s' with altPending := true }, none)
    else if s.immRemaining = 0 then finalize s.pfx d
    else (s', none)
  else if s.immRemaining = 2 then
    ({ s with inflight := some { s.current with imm := joinBytes (hiByte s.current.imm) b },
              immRemaining := 1, awaitHigh := true }, none)
  else if s.immRemaining = 1 then
    let imm := if s.awaitHigh then joinBytes b (loByte s.current.imm) else joinBytes (hiByte s.current.imm) b
    finalize s.pfx { s.current with imm := imm }
  else s.feedOpcode b

/-! ## Decoding a list of bytes -/

/-- Why a list of bytes holds no instruction: it ends inside one. No byte sequence is refused otherwise (30 R138). -/
inductive DecodeError where
  | needMoreBytes
  deriving DecidableEq, Repr

/-- Feeds the bytes until an instruction completes. A list that ends right after the first prefix byte is the key of a
prefix row of the opcode table and gives that row (log entry 14). -/
def decodeFrom (s : Decoder) : List Byte → Except DecodeError (Instr × List Byte)
  | [] =>
    if s = { Decoder.empty with pfx := .CB } then .ok (.prefixCB, [])
    else if s = { Decoder.empty with pfx := .DD } then .ok (.prefixDD, [])
    else if s = { Decoder.empty with pfx := .ED } then .ok (.prefixED, [])
    else if s = { Decoder.empty with pfx := .FD } then .ok (.prefixFD, [])
    else .error .needMoreBytes
  | b :: rest =>
    match s.feed b with
    | (_, some i) => .ok (i, rest)
    | (s', none) => decodeFrom s' rest

/-- The decoder over bytes in the order they are fetched, from the empty state. -/
def decode (bytes : List Byte) : Except DecodeError (Instr × List Byte) := decodeFrom Decoder.empty bytes

/-! ## Opcode-table words -/

/-- Byte `k` of a number, byte 0 least significant. -/
def byteOf (w k : Nat) : Byte := BitVec.ofNat 8 (w / 256 ^ k)

/-- The bytes, in fetch order, of an opcode-table key of `nbits` bits. The table writes a key first byte most significant
(`match` and `fixed` of CB C6 are 0xCBC6), and leaves out a DDCB/FDCB displacement, which is 0 here. A key whose first byte
so read is no prefix is taken least significant byte first (log entry 15). Operand bytes above a two-byte key are 0. -/
def keyBytes (nbits w : Nat) : List Byte :=
  if nbits ≤ 8 then [byteOf w 0]
  else if nbits ≤ 16 then
    if (prefixOf (byteOf w 1)).isSome then [byteOf w 1, byteOf w 0] else [byteOf w 0, byteOf w 1]
  else
    if byteOf w 1 = 0xCB#8 ∧ (byteOf w 2 = 0xDD#8 ∨ byteOf w 2 = 0xFD#8) then
      [byteOf w 2, byteOf w 1, 0#8, byteOf w 0]
    else if byteOf w 2 = 0#8 ∧ (prefixOf (byteOf w 1)).isSome ∧ (prefixOf (byteOf w 0)).isNone then
      [byteOf w 1, byteOf w 0]
    else [byteOf w 0, byteOf w 1, 0#8, byteOf w 2]

/-- The bytes of a table word with its operand bytes zero, four in all: the longest instruction. -/
def wordBytes (nbits w : Nat) : List Byte := (keyBytes nbits w ++ [0#8, 0#8, 0#8]).take 4

/-- The instruction the decoder reads from an opcode-table word. The key of a prefix row has no further bytes. -/
def decodeTableWord (nbits w : Nat) : Option Instr :=
  let key := keyBytes nbits w
  match decode key with
  | .ok (i, _) => some i
  | .error _ =>
    match decode (wordBytes nbits w) with
    | .ok (i, _) => some i
    | .error _ => none

/-! ## The encoder, from the same tables -/

/-- The opcode byte with fields x, y, z, 30 R100. -/
def opXYZ (x y z : Nat) : Byte := BitVec.ofNat 8 (64 * x + 8 * y + z)

/-- The opcode byte with fields x, p, q, z, 30 R100. -/
def opXPQZ (x p q z : Nat) : Byte := opXYZ x (2 * p + q) z

/-- Index in the r table, 30 R113. -/
def Reg8.code : Reg8 → Nat
  | .b => 0
  | .c => 1
  | .d => 2
  | .e => 3
  | .h => 4
  | .l => 5
  | .a => 7

def Rp.code : Rp → Nat
  | .bc => 0
  | .de => 1
  | .hl => 2
  | .sp => 3

def Rp2.code : Rp2 → Nat
  | .bc => 0
  | .de => 1
  | .hl => 2
  | .af => 3

def RpX.code : RpX → Nat
  | .bc => 0
  | .de => 1
  | .x => 2
  | .sp => 3

def Cond.code : Cond → Nat
  | .nz => 0
  | .z => 1
  | .nc => 2
  | .c => 3
  | .po => 4
  | .pe => 5
  | .p => 6
  | .m => 7

/-- XH and XL stand at r[4] and r[5], 30 R145. -/
def Half.code : Half → Nat
  | .hi => 4
  | .lo => 5

def XSrc.code : XSrc → Nat
  | .b => 0
  | .c => 1
  | .d => 2
  | .e => 3
  | .xh => 4
  | .xl => 5
  | .a => 7

/-- The prefix byte of an index register, 30 R102. -/
def Idx.prefixByte : Idx → Byte
  | .ix => 0xDD#8
  | .iy => 0xFD#8

/-- A 16-bit immediate, low byte first (30 R124). -/
def immBytesOf (nn : Word) : List Byte := [loByte nn, hiByte nn]

/-- Formats of 30 R102. -/
def encCB (x y z : Nat) : List Byte := [0xCB#8, opXYZ x y z]
def encED (b : Byte) : List Byte := [0xED#8, b]
def encX (x : Idx) (b : Byte) : List Byte := [x.prefixByte, b]
def encXCB (i : Idx) (d : Byte) (x y z : Nat) : List Byte := [i.prefixByte, 0xCB#8, d, opXYZ x y z]

/-- The words of an instruction: the first row of the opcode table that has its mnemonic, and the first of its
duplicates (30 R140). -/
def encode : Instr → List Byte
  | .nop => [0x00#8]
  | .ldRpNn rp nn => opXPQZ 0 rp.code 0 1 :: immBytesOf nn
  | .ldAtRrA rr => [opXPQZ 0 rr.code 0 2]
  | .incRp rp => [opXPQZ 0 rp.code 0 3]
  | .incR r => [opXYZ 0 r.code 4]
  | .decR r => [opXYZ 0 r.code 5]
  | .ldRN r n => [opXYZ 0 r.code 6, n]
  | .rlca => [0x07#8]
  | .exAfAf => [0x08#8]
  | .addHlRp rp => [opXPQZ 0 rp.code 1 1]
  | .ldAAtRr rr => [opXPQZ 0 rr.code 1 2]
  | .decRp rp => [opXPQZ 0 rp.code 1 3]
  | .rrca => [0x0F#8]
  | .djnz d => [0x10#8, d]
  | .rla => [0x17#8]
  | .jr d => [0x18#8, d]
  | .rra => [0x1F#8]
  | .jrCc cc d => [opXYZ 0 (4 + cc.code) 0, d]
  | .ldAtNnHl nn => 0x22#8 :: immBytesOf nn
  | .daa => [0x27#8]
  | .ldHlAtNn nn => 0x2A#8 :: immBytesOf nn
  | .cpl => [0x2F#8]
  | .ldAtNnA nn => 0x32#8 :: immBytesOf nn
  | .incAtHl => [0x34#8]
  | .decAtHl => [0x35#8]
  | .ldAtHlN n => [0x36#8, n]
  | .scf => [0x37#8]
  | .ldAAtNn nn => 0x3A#8 :: immBytesOf nn
  | .ccf => [0x3F#8]
  | .ldRR r r' => [opXYZ 1 r.code r'.code]
  | .nopEmpty => [0x46#8]
  | .ldAtHlR r => [opXYZ 1 6 r.code]
  | .halt => [0x76#8]
  | .addAR r => [opXYZ 2 0 r.code]
  | .addAAtHl => [0x86#8]
  | .adcAR r => [opXYZ 2 1 r.code]
  | .adcAAtHl => [0x8E#8]
  | .subR r => [opXYZ 2 2 r.code]
  | .subAtHl => [0x96#8]
  | .sbcAR r => [opXYZ 2 3 r.code]
  | .sbcAAtHl => [0x9E#8]
  | .andR r => [opXYZ 2 4 r.code]
  | .andAtHl => [0xA6#8]
  | .xorR r => [opXYZ 2 5 r.code]
  | .xorAtHl => [0xAE#8]
  | .orR r => [opXYZ 2 6 r.code]
  | .orAtHl => [0xB6#8]
  | .cpR r => [opXYZ 2 7 r.code]
  | .cpAtHl => [0xBE#8]
  | .retCc cc => [opXYZ 3 cc.code 0]
  | .popRp2 rp => [opXPQZ 3 rp.code 0 1]
  | .jpCc cc nn => opXYZ 3 cc.code 2 :: immBytesOf nn
  | .jp nn => 0xC3#8 :: immBytesOf nn
  | .callCc cc nn => opXYZ 3 cc.code 4 :: immBytesOf nn
  | .pushRp2 rp => [opXPQZ 3 rp.code 0 5]
  | .addAN n => [0xC6#8, n]
  | .rst p => [0xC7#8 ||| p]
  | .ret => [0xC9#8]
  | .prefixCB => [0xCB#8]
  | .call nn => 0xCD#8 :: immBytesOf nn
  | .adcAN n => [0xCE#8, n]
  | .outNA n => [0xD3#8, n]
  | .subN n => [0xD6#8, n]
  | .exx => [0xD9#8]
  | .inAN n => [0xDB#8, n]
  | .prefixDD => [0xDD#8]
  | .sbcAN n => [0xDE#8, n]
  | .exAtSpHl => [0xE3#8]
  | .andN n => [0xE6#8, n]
  | .jpHl => [0xE9#8]
  | .exDeHl => [0xEB#8]
  | .prefixED => [0xED#8]
  | .xorN n => [0xEE#8, n]
  | .di => [0xF3#8]
  | .orN n => [0xF6#8, n]
  | .ldSpHl => [0xF9#8]
  | .ei => [0xFB#8]
  | .prefixFD => [0xFD#8]
  | .cpN n => [0xFE#8, n]
  | .rlcR r => encCB 0 0 r.code
  | .rlcAtHl => encCB 0 0 6
  | .rrcR r => encCB 0 1 r.code
  | .rrcAtHl => encCB 0 1 6
  | .rlR r => encCB 0 2 r.code
  | .rlAtHl => encCB 0 2 6
  | .rrR r => encCB 0 3 r.code
  | .rrAtHl => encCB 0 3 6
  | .slaR r => encCB 0 4 r.code
  | .slaAtHl => encCB 0 4 6
  | .sraR r => encCB 0 5 r.code
  | .sraAtHl => encCB 0 5 6
  | .sllR r => encCB 0 6 r.code
  | .sllAtHl => encCB 0 6 6
  | .srlR r => encCB 0 7 r.code
  | .srlAtHl => encCB 0 7 6
  | .bitR b r => encCB 1 b.toNat r.code
  | .bitAtHl b => encCB 1 b.toNat 6
  | .resR b r => encCB 2 b.toNat r.code
  | .resAtHl b => encCB 2 b.toNat 6
  | .setR b r => encCB 3 b.toNat r.code
  | .setAtHl b => encCB 3 b.toNat 6
  | .noni => encED 0x00#8
  | .inRC r => encED (opXYZ 1 r.code 0)
  | .outCR r => encED (opXYZ 1 r.code 1)
  | .sbcHlRp rp => encED (opXPQZ 1 rp.code 0 2)
  | .ldAtNnRp rp nn => encED (opXPQZ 1 rp.code 0 3) ++ immBytesOf nn
  | .neg => encED 0x44#8
  | .retn => encED 0x45#8
  | .im i => encED (opXYZ 1 i.toNat 6)
  | .ldIA => encED 0x47#8
  | .adcHlRp rp => encED (opXPQZ 1 rp.code 1 2)
  | .ldRpAtNn rp nn => encED (opXPQZ 1 rp.code 1 3) ++ immBytesOf nn
  | .reti => encED 0x4D#8
  | .ldRA => encED 0x4F#8
  | .ldAI => encED 0x57#8
  | .ldAR => encED 0x5F#8
  | .rrd => encED 0x67#8
  | .rld => encED 0x6F#8
  | .inC => encED 0x70#8
  | .outC0 => encED 0x71#8
  | .ldi => encED 0xA0#8
  | .cpi => encED 0xA1#8
  | .ini => encED 0xA2#8
  | .outi => encED 0xA3#8
  | .ldd => encED 0xA8#8
  | .cpd => encED 0xA9#8
  | .ind => encED 0xAA#8
  | .outd => encED 0xAB#8
  | .ldir => encED 0xB0#8
  | .cpir => encED 0xB1#8
  | .inir => encED 0xB2#8
  | .otir => encED 0xB3#8
  | .lddr => encED 0xB8#8
  | .cpdr => encED 0xB9#8
  | .indr => encED 0xBA#8
  | .otdr => encED 0xBB#8
  | .addXRp x rp => encX x (opXPQZ 0 rp.code 1 1)
  | .ldXNn x nn => encX x 0x21#8 ++ immBytesOf nn
  | .ldAtNnX x nn => encX x 0x22#8 ++ immBytesOf nn
  | .incX x => encX x 0x23#8
  | .incXHalf x h => encX x (opXYZ 0 h.code 4)
  | .decXHalf x h => encX x (opXYZ 0 h.code 5)
  | .ldXHalfN x h n => encX x (opXYZ 0 h.code 6) ++ [n]
  | .ldXAtNn x nn => encX x 0x2A#8 ++ immBytesOf nn
  | .decX x => encX x 0x2B#8
  | .incAtXd x d => encX x 0x34#8 ++ [d]
  | .decAtXd x d => encX x 0x35#8 ++ [d]
  | .ldAtXdN x d n => encX x 0x36#8 ++ [d, n]
  | .ldRXHalf r x h => encX x (opXYZ 1 r.code h.code)
  | .ldXHalfR x h src => encX x (opXYZ 1 h.code src.code)
  | .ldAtXdR x d r => encX x (opXYZ 1 6 r.code) ++ [d]
  | .ldAtXdXHalf x d h => encX x (opXYZ 1 6 h.code) ++ [d]
  | .addAXHalf x h => encX x (opXYZ 2 0 h.code)
  | .addAAtXd x d => encX x 0x86#8 ++ [d]
  | .adcAXHalf x h => encX x (opXYZ 2 1 h.code)
  | .adcAAtXd x d => encX x 0x8E#8 ++ [d]
  | .subXHalf x h => encX x (opXYZ 2 2 h.code)
  | .subAtXd x d => encX x 0x96#8 ++ [d]
  | .sbcAXHalf x h => encX x (opXYZ 2 3 h.code)
  | .sbcAAtXd x d => encX x 0x9E#8 ++ [d]
  | .andXHalf x h => encX x (opXYZ 2 4 h.code)
  | .andAtXd x d => encX x 0xA6#8 ++ [d]
  | .xorXHalf x h => encX x (opXYZ 2 5 h.code)
  | .xorAtXd x d => encX x 0xAE#8 ++ [d]
  | .orXHalf x h => encX x (opXYZ 2 6 h.code)
  | .orAtXd x d => encX x 0xB6#8 ++ [d]
  | .cpXHalf x h => encX x (opXYZ 2 7 h.code)
  | .cpAtXd x d => encX x 0xBE#8 ++ [d]
  | .popX x => encX x 0xE1#8
  | .exAtSpX x => encX x 0xE3#8
  | .pushX x => encX x 0xE5#8
  | .jpX x => encX x 0xE9#8
  | .ldSpX x => encX x 0xF9#8
  | .rlcAlt x d r => encXCB x d 0 0 r.code
  | .rlcAtXd x d => encXCB x d 0 0 6
  | .rrcAlt x d r => encXCB x d 0 1 r.code
  | .rrcAtXd x d => encXCB x d 0 1 6
  | .rlAlt x d r => encXCB x d 0 2 r.code
  | .rlAtXd x d => encXCB x d 0 2 6
  | .rrAlt x d r => encXCB x d 0 3 r.code
  | .rrAtXd x d => encXCB x d 0 3 6
  | .slaAlt x d r => encXCB x d 0 4 r.code
  | .slaAtXd x d => encXCB x d 0 4 6
  | .sraAlt x d r => encXCB x d 0 5 r.code
  | .sraAtXd x d => encXCB x d 0 5 6
  | .sllAlt x d r => encXCB x d 0 6 r.code
  | .sllAtXd x d => encXCB x d 0 6 6
  | .srlAlt x d r => encXCB x d 0 7 r.code
  | .srlAtXd x d => encXCB x d 0 7 6
  | .bitAtXd b x d => encXCB x d 1 b.toNat 6
  | .resAlt b x d r => encXCB x d 2 b.toNat r.code
  | .resAtXd b x d => encXCB x d 2 b.toNat 6
  | .setAlt b x d r => encXCB x d 3 b.toNat r.code
  | .setAtXd b x d => encXCB x d 3 b.toNat 6

end Sys2Proof
end

