-- ==== Sys2Proof/Machine/State.lean ====
section
/-! DEFINITION. State: everything spec 10 gives the machine, the parameters of 00 R7, and the model's own records
(bus trace, draw counter, environment schedule). Plain data only. -/

namespace Sys2Proof.Machine

/-- The flag register, one Bool for each bit of F (10 R28). The byte view is `Flags.toByte`. -/
structure Flags where
  s  : Bool
  z  : Bool
  f5 : Bool
  h  : Bool
  f3 : Bool
  pv : Bool
  n  : Bool
  c  : Bool
  deriving DecidableEq, Repr, Inhabited

/-- One general register bank (10 R20). The pairs of 10 R22 are views of it. -/
structure Bank where
  a : Byte
  f : Flags
  b : Byte
  c : Byte
  d : Byte
  e : Byte
  h : Byte
  l : Byte
  deriving DecidableEq, Repr, Inhabited

/-- The interrupt mode (10 R32). -/
inductive IntMode where
  | mode0 | mode1 | mode2
  deriving DecidableEq, Repr, Inhabited

/-- Memory contents: (address, byte) in canonical form (`Memory.wf` in Machine/Memory.lean). -/
abbrev Memory := List Host.Cell

/-- The output lines but HALT, true = asserted (10 R35). HALT is `Surface.haltLine`. -/
structure Lines where
  m1     : Bool := false
  mreq   : Bool := false
  iorq   : Bool := false
  rd     : Bool := false
  wr     : Bool := false
  rfsh   : Bool := false
  busack : Bool := false
  deriving DecidableEq, Repr, Inhabited

/-- The M-cycle classification (10 R37). -/
inductive MCycle where
  | opcodeFetch | memRead | memWrite | ioRead | ioWrite | intAck | other
  deriving DecidableEq, Repr, Inhabited

/-- The bus operations (20 R71). -/
inductive BusCycle where
  | fetchOpcode | readMemory | writeMemory | readIo | writeIo | intAcknowledge | nmiAcknowledge
  deriving DecidableEq, Repr, Inhabited

/-- A bus operation as it was done, with the address or port and the byte that moved (20 R71). -/
inductive BusOp where
  | fetchOpcode (addr : Word) (v : Byte)
  | readMemory  (addr : Word) (v : Byte)
  | writeMemory (addr : Word) (v : Byte)
  | readIo      (port : Word) (v : Byte)
  | writeIo     (port : Word) (v : Byte)
  | intAcknowledge (v : Byte)
  | nmiAcknowledge (addr : Word)
  deriving DecidableEq, Repr, Inhabited

/-- What the outside can do to the signal surface (20 R36, R86; 60 R401; 70 R458, R460). A source is named by a number. -/
inductive Signal where
  | int
  | nmi
  | vector (v : Byte)
  | busreq (source : Nat) (on : Bool)
  | reset  (source : Nat) (on : Bool)
  | wait   (source : Nat) (on : Bool)
  | kill
  deriving DecidableEq, Repr, Inhabited

/-- The signals that arrive during one T-cycle, seen at the clock edge that ends it. -/
abbrev Edge := List Signal

/-- One retired clock edge: the M-cycle kind, the lines held until it, and the HALT line. -/
structure Tick where
  kind  : MCycle
  lines : Lines
  halt  : Bool
  deriving DecidableEq, Repr, Inhabited

/-- The pins: output lines, M-cycle kind, and the sources that assert each input line (10 R35 to R37). -/
structure Pins where
  lines         : Lines
  mcycle        : MCycle
  busreqSources : List Nat
  resetSources  : List Nat
  waitSources   : List Nat
  deriving DecidableEq, Repr, Inhabited

/-- Records (the model's own): the I/O event history (20 R66, R67), and the bus operations of the current step in order. -/
structure Trace where
  events : List IoEvent
  bus    : List BusOp
  deriving DecidableEq, Repr, Inhabited

/-- Why a step stops. No instruction raises one; each is a stop of the step around it. -/
inductive Fault where
  /-- Raised by step when kill was set between steps: "if kill = 1: stop" (70 R452, R458). The state before the step is
  complete. Safe: nothing is claimed after it. -/
  | killed
  /-- Raised by a clock edge that brings kill during a step: the state is not defined (70 R458; 93 U7, stuck). Safe. -/
  | killedMidStep
  /-- Raised by a phase whose clock edge never comes (70 R460; 93 U17, stuck). Safe. -/
  | clockStopped
  /-- Raised by a phase that WAIT holds at every coming edge (20 R79): the phase never ends. Safe. -/
  | waitNeverReleased
  /-- Raised by a hand-off whose BUSREQ stays asserted at every coming edge (20 R80): it never ends. Safe. -/
  | busNeverReturned
  /-- Raised by a fetch loop that four bytes did not complete; no state raises it (30 R101). Safe. -/
  | decodeUnfinished
  deriving DecidableEq, Repr

/-- The signal surface and the clock: all that a clock edge or another agent writes, and the HALT line (10 R33 to R37, R46,
R47; 20 R86). The model's own fields: `clock`, the signals of each coming clock edge, and `clockEnds`, whether the clock
stops after them, else quiet edges follow for ever (log entry 7); `wave`, the edges retired in the current step; `stuck`, why
a phase of the current step never ends (log entry 9). -/
structure Surface where
  pins      : Pins
  halted    : Bool
  nmiLatch  : Bool
  intLatch  : Bool
  intVector : Option Byte
  kill      : Bool
  tTotal    : BitVec 64
  tInstr    : BitVec 64
  clock     : List Edge
  clockEnds : Bool
  wave      : List Tick
  stuck     : Option Fault
  deriving DecidableEq, Repr

/-- The machine's state. The model's own fields beside those of `Surface`: `draws`, `portAnswers` (the coming answers of port
devices, log entry 5) and `trace`. -/
structure State extends Surface where
  main      : Bank
  alt       : Bank
  ix        : Word
  iy        : Word
  sp        : Word
  pc        : Word
  i         : Byte
  r         : Byte
  iff1      : Bool
  iff2      : Bool
  im        : IntMode
  mode0Byte : Option Byte
  decoder   : Decoder
  mem       : Memory
  cfg       : Params
  draws     : Nat
  portAnswers : List Byte
  trace     : Trace
  deriving DecidableEq, Repr

/-- Why an instruction has no meaning. -/
inductive Refusal where
  /-- Raised by exec for an instruction the model does not cover; no arm raises it. Safe. -/
  | notModelled (mnemonic : String)
  deriving DecidableEq, Repr

/-- The outcome of a step of this machine. -/
abbrev Out := Host.Outcome State Fault Refusal

/-- The default memory map: all 64 KiB read-write RAM (00 R7). -/
def allRam : MemMap := [{ low := 0x0000#16, high := 0xFFFF#16, readOnly := false }]

/-- Every port byte claimed (log entry 24). -/
def allPorts : PortMap := (List.range 256).map (BitVec.ofNat 8)

/-- The parameters at their defaults (00 R7). -/
def defaultParams : Params :=
  { memMap := allRam, ports := allPorts, undocF53 := .draw, undocFlags := .draw, intNoVector := 0xFF#8 }

/-- DESIGN CHOICE (log entry 2): the value of every register bit that is a draw at power-on (10 R50). -/
def zeroFlags : Flags :=
  { s := false, z := false, f5 := false, h := false, f3 := false, pv := false, n := false, c := false }

def zeroBank : Bank := { a := 0, f := zeroFlags, b := 0, c := 0, d := 0, e := 0, h := 0, l := 0 }

/-- Power-on, which behaves as if a reset had just completed (10 R48, R49). The latches and `int_vector` are clear (log
entry 27). -/
def State.reset : State :=
  { main := zeroBank, alt := zeroBank, ix := 0, iy := 0, sp := 0,
    pc := 0x0000#16, i := 0x00#8, r := 0x00#8, iff1 := false, iff2 := false, im := .mode0,
    nmiLatch := false, intLatch := false, intVector := none, mode0Byte := none, halted := false,
    decoder := Decoder.empty, mem := [],
    pins := { lines := {}, mcycle := .other, busreqSources := [], resetSources := [], waitSources := [] },
    tTotal := 0, tInstr := 0, kill := false, clock := [], clockEnds := false, wave := [], stuck := none,
    cfg := defaultParams, draws := 0, portAnswers := [], trace := { events := [], bus := [] } }

end Sys2Proof.Machine
end

