-- ==== Sys2Proof/Machine/Memory.lean ====
section
/-! DEFINITION. Memory: the canonical list of bytes, the memory map's resolution and registration, the port map's
registration (spec 20 R60 to R64). -/

namespace Sys2Proof.Machine

/-- What a mapped byte that nothing has written reads as (log entry 3). -/
def unlistedByte : Byte := 0x00#8

/-- The byte listed at an address, or the unlisted one. -/
def Memory.read (m : Memory) (a : Nat) : Byte :=
  match m with
  | [] => unlistedByte
  | (k, v) :: rest => if k = a then v else Memory.read rest a

/-- The list without an address. -/
def Memory.erase (m : Memory) (a : Nat) : Memory := m.filter (fun c => decide (c.1 ≠ a))

/-- The list with a cell put before the first larger address. -/
def Memory.insert (m : Memory) (a : Nat) (v : Byte) : Memory :=
  match m with
  | [] => [(a, v)]
  | (k, w) :: rest => if a < k then (a, v) :: (k, w) :: rest else (k, w) :: Memory.insert rest a v

/-- Writes one byte and keeps the canonical form. -/
def Memory.write (m : Memory) (a : Nat) (v : Byte) : Memory :=
  if v = unlistedByte then m.erase a else (m.erase a).insert a v

/-- The canonical form: addresses strictly rising and inside the space, no entry equal to the unlisted byte. -/
abbrev Memory.wf (m : Memory) : Prop :=
  m.Pairwise (fun x y => x.1 < y.1) ∧ ∀ c ∈ m, c.1 < 2 ^ 16 ∧ c.2 ≠ unlistedByte

end Sys2Proof.Machine

namespace Sys2Proof

/-- A region covers an address of its inclusive range. -/
def Region.covers (r : Region) (a : Word) : Bool := decide (r.low ≤ a) && decide (a ≤ r.high)

/-- Two inclusive ranges share an address (20 R62). -/
def Region.overlaps (r q : Region) : Bool := decide (r.low ≤ q.high) && decide (q.low ≤ r.high)

/-- Resolution: a linear scan, first match wins (20 R60). -/
def MemMap.resolve (m : MemMap) (a : Word) : Option Region := m.find? (fun r => r.covers a)

/-- The offset a region is given for an address (20 R60). -/
def Region.offset (r : Region) (a : Word) : Word := a - r.low

/-- Registration fails if the new range overlaps a registered one (20 R62). -/
def MemMap.register (m : MemMap) (r : Region) : Option MemMap :=
  if m.any (fun q => q.overlaps r) then none else some (m ++ [r])

/-- No two regions share an address: what registration leaves (20 R62). -/
abbrev MemMap.wf (m : MemMap) : Prop := m.Pairwise (fun q r => q.overlaps r = false)

/-- Registration fails if the port byte is claimed (20 R64). -/
def PortMap.register (m : PortMap) (p : Byte) : Option PortMap := if p ∈ m then none else some (m ++ [p])

end Sys2Proof
end

