-- ==== Sys2Proof/Machine/Bus.lean ====
section
/-! DEFINITION. Bus: the T-cycle level, on the signal surface. The phases of each bus operation (spec 20 R71 to R78), clock
edges and the signals that arrive at them, WAIT (R79), BUSREQ hand-off (R80), internal cycles (70 R465). Stuck phases are
named faults (log entry 9). -/

namespace Sys2Proof.Machine

/-- Which operation was done. -/
def BusOp.cycle : BusOp → BusCycle
  | .fetchOpcode _ _ => .fetchOpcode
  | .readMemory _ _ => .readMemory
  | .writeMemory _ _ => .writeMemory
  | .readIo _ _ => .readIo
  | .writeIo _ _ => .writeIo
  | .intAcknowledge _ => .intAcknowledge
  | .nmiAcknowledge _ => .nmiAcknowledge

/-- The M-cycle kind of a bus operation, 20 R71. -/
def BusCycle.kind : BusCycle → MCycle
  | .fetchOpcode => .opcodeFetch
  | .readMemory => .memRead
  | .writeMemory => .memWrite
  | .readIo => .ioRead
  | .writeIo => .ioWrite
  | .intAcknowledge => .intAck
  | .nmiAcknowledge => .opcodeFetch

/-- The phases of an opcode fetch, 20 R72. -/
def fetchPhases : List Lines :=
  [{ m1 := true, mreq := true, rd := true }, { m1 := true, mreq := true, rd := true },
   { mreq := true, rfsh := true }, { rfsh := true }]

/-- The lines of each phase of a bus operation, 20 R72 to R78. -/
def BusCycle.phases : BusCycle → List Lines
  | .fetchOpcode => fetchPhases
  | .readMemory => [{ mreq := true, rd := true }, { mreq := true, rd := true }, { mreq := true, rd := true }]
  | .writeMemory => [{ mreq := true }, { mreq := true, wr := true }, { mreq := true, wr := true }]
  | .readIo => [{}, { iorq := true, rd := true }, { iorq := true, rd := true }, { iorq := true, rd := true }]
  | .writeIo => [{}, { iorq := true, wr := true }, { iorq := true, wr := true }, { iorq := true, wr := true }]
  | .intAcknowledge => [{ m1 := true }, { m1 := true, iorq := true }, { rfsh := true, mreq := true }, { rfsh := true }]
  | .nmiAcknowledge => fetchPhases

def BusOp.kind (op : BusOp) : MCycle := op.cycle.kind
def BusOp.phases (op : BusOp) : List Lines := op.cycle.phases

/-! ## Input lines and signals -/

/-- An input line is asserted when any of its sources is (10 R36). -/
def Surface.busreq (s : Surface) : Bool := !s.pins.busreqSources.isEmpty
def Surface.resetLine (s : Surface) : Bool := !s.pins.resetSources.isEmpty
def Surface.wait (s : Surface) : Bool := !s.pins.waitSources.isEmpty

/-- The sources of a line after one of them asserts or deasserts it. -/
def setSource (sources : List Nat) (k : Nat) (on : Bool) : List Nat :=
  if on then (if k ∈ sources then sources else k :: sources) else sources.filter (fun j => decide (j ≠ k))

/-- One signal of the outside (60 R401; 10 R36; 70 R458). A latch already set stays set: requests merge. -/
def Surface.signal (s : Surface) : Signal → Surface
  | .int => { s with intLatch := true }
  | .nmi => { s with nmiLatch := true }
  | .vector v => { s with intVector := some v }
  | .busreq k on => { s with pins := { s.pins with busreqSources := setSource s.pins.busreqSources k on } }
  | .reset k on => { s with pins := { s.pins with resetSources := setSource s.pins.resetSources k on } }
  | .wait k on => { s with pins := { s.pins with waitSources := setSource s.pins.waitSources k on } }
  | .kill => { s with kill := true }

/-- The signals of one edge, in order. -/
def Surface.signals (s : Surface) (e : Edge) : Surface := e.foldl Surface.signal s

/-! ## Clock edges and phases -/

/-- The HALT output line (10 R34). -/
def Surface.haltLine (s : Surface) : Bool := s.halted

/-- `n` clock edges retired with the lines as they are: both counters advance, and the record of the lines (20 R79;
10 R46). -/
def Surface.retire (s : Surface) (n : Nat) : Surface :=
  { s with
    tTotal := s.tTotal + BitVec.ofNat 64 n
    tInstr := s.tInstr + BitVec.ofNat 64 n
    wave := s.wave ++ List.replicate n { kind := s.pins.mcycle, lines := s.pins.lines, halt := s.haltLine } }

def Surface.publish (s : Surface) (l : Lines) : Surface := { s with pins := { s.pins with lines := l } }

def Surface.setKind (s : Surface) (k : MCycle) : Surface := { s with pins := { s.pins with mcycle := k } }

/-- A listed edge: it retires one T-cycle, then the signals that arrived by it are seen. -/
def Surface.takeEdge (s : Surface) (e : Edge) (rest : List Edge) : Except Fault Surface :=
  let t := ({ s with clock := rest }.retire 1).signals e
  if t.kill then .error .killedMidStep else .ok t

/-- Listed edges while `held` says the CPU is blocked. When no edge is left and it is still blocked, nothing ever frees
it: `stuck`, or the clock has stopped. -/
def holdWhile (held : Surface → Bool) (stuck : Fault) : List Edge → Surface → Except Fault Surface
  | [], s => if held s then .error (if s.clockEnds then .clockStopped else stuck) else .ok s
  | e :: rest, s =>
    if held s then
      match s.takeEdge e rest with
      | .ok t => holdWhile held stuck rest t
      | .error f => .error f
    else .ok s

/-- One clock edge, listed or quiet (log entry 7). -/
def Surface.edge (s : Surface) : Except Fault Surface :=
  match s.clock with
  | [] => if s.clockEnds then .error .clockStopped else .ok (s.retire 1)
  | e :: rest => s.takeEdge e rest

/-- One phase: its lines are published, an edge ends it, and WAIT stretches it (20 R79). -/
def Surface.phase (s : Surface) (l : Lines) : Except Fault Surface :=
  match (s.publish l).edge with
  | .ok t => holdWhile Surface.wait .waitNeverReleased t.clock t
  | .error f => .error f

def Surface.runPhases (s : Surface) : List Lines → Except Fault Surface
  | [] => .ok s
  | l :: rest =>
    match s.phase l with
    | .ok t => t.runPhases rest
    | .error f => .error f

/-- The hand-off before a bus cycle, 20 R80: BUSACK alone is asserted until BUSREQ is deasserted. -/
def Surface.handOff (s : Surface) : Except Fault Surface :=
  if s.busreq then holdWhile Surface.busreq .busNeverReturned s.clock (s.publish { busack := true }) else .ok s

/-- The hand-off and the phases of one bus operation (20 R80, R79). -/
def Surface.runCycle (s : Surface) (k : BusCycle) : Except Fault Surface :=
  match s.handOff with
  | .ok t => (t.setKind k.kind).runPhases k.phases
  | .error f => .error f

/-- `n` internal T-cycles (70 R465, M-cycle kind Other) over the listed edges: an edge ends one unless WAIT is asserted.
After the listed edges come quiet ones. -/
def otherCycles : List Edge → Nat → Surface → Except Fault Surface
  | [], n, s =>
    if s.clockEnds then (if n = 0 then .ok s else .error .clockStopped)
    else if s.wait then (if n = 0 then .ok s else .error .waitNeverReleased)
    else .ok (s.retire n)
  | e :: rest, n, s =>
    if n = 0 then .ok s
    else
      match s.takeEdge e rest with
      | .ok t => otherCycles rest (if t.wait then n else n - 1) t
      | .error f => .error f

/-- The internal cycles of an instruction, with no line asserted. -/
def Surface.runInternal (s : Surface) (n : Nat) : Except Fault Surface :=
  otherCycles s.clock n { s with pins := { s.pins with lines := {}, mcycle := if n = 0 then s.pins.mcycle else .other } }

/-! ## The surface after it

A phase that never ends makes the surface stuck: no later edge is taken, and the step answers the reason (log entry 9). -/

/-- The surface after `run`, unless a phase before it never ended. -/
def Surface.after (s : Surface) (run : Except Fault Surface) : Surface :=
  if s.stuck.isSome then s
  else
    match run with
    | .ok t => t
    | .error f => { s with stuck := some f }

/-- A bus operation up to the end of its last phase, where its data transfer is performed (20 R81). -/
def Surface.cycle (s : Surface) (k : BusCycle) : Surface := s.after (s.runCycle k)

/-- The end of a bus operation, after its data transfer: every line is deasserted but HALT (20 R81). -/
def Surface.release (s : Surface) : Surface := s.publish {}

/-- What bus operations do to the surface, in order. -/
def Surface.operations (s : Surface) (ops : List BusOp) : Surface :=
  ops.foldl (fun t op => (t.cycle op.cycle).release) s

def Surface.internal (s : Surface) (n : Nat) : Surface := s.after (s.runInternal n)

/-- The same on the state: everything outside the surface is as it was. -/
def State.signal (s : State) (x : Signal) : State := { s with toSurface := s.toSurface.signal x }
def State.signals (s : State) (e : Edge) : State := { s with toSurface := s.toSurface.signals e }
def State.cycle (s : State) (k : BusCycle) : State := { s with toSurface := s.toSurface.cycle k }
def State.release (s : State) : State := { s with toSurface := s.toSurface.release }
def State.internal (s : State) (n : Nat) : State := { s with toSurface := s.toSurface.internal n }

end Sys2Proof.Machine
end

