-- ==== Sys2Proof/Machine/Ops.lean ====
section
/-! DEFINITION. Ops: the named operations over registers, memory, ports and the stack, the interrupt entries and the
return from an interrupt. Every bus operation runs its phases, then moves its byte, then deasserts the lines (spec 20 R71,
R81), and is recorded in order. -/

namespace Sys2Proof.Machine

/-! ## Registers, 10 R20 to R27 -/

/-- F as a byte, 10 R28. -/
def Flags.toByte (f : Flags) : Byte :=
  (if f.s then 0x80#8 else 0) ||| (if f.z then 0x40#8 else 0) ||| (if f.f5 then 0x20#8 else 0) |||
    (if f.h then 0x10#8 else 0) ||| (if f.f3 then 0x08#8 else 0) ||| (if f.pv then 0x04#8 else 0) |||
    (if f.n then 0x02#8 else 0) ||| (if f.c then 0x01#8 else 0)

/-- F from a byte: all eight bits are written (10 R29). -/
def Flags.ofByte (b : Byte) : Flags :=
  { s := b.getLsbD 7, z := b.getLsbD 6, f5 := b.getLsbD 5, h := b.getLsbD 4, f3 := b.getLsbD 3,
    pv := b.getLsbD 2, n := b.getLsbD 1, c := b.getLsbD 0 }

def Bank.get (k : Bank) : Reg8 → Byte
  | .a => k.a
  | .b => k.b
  | .c => k.c
  | .d => k.d
  | .e => k.e
  | .h => k.h
  | .l => k.l

def Bank.set (k : Bank) (q : Reg8) (v : Byte) : Bank :=
  match q with
  | .a => { k with a := v }
  | .b => { k with b := v }
  | .c => { k with c := v }
  | .d => { k with d := v }
  | .e => { k with e := v }
  | .h => { k with h := v }
  | .l => { k with l := v }

/-- An 8-bit general register of the main bank. -/
def State.reg (s : State) (q : Reg8) : Byte := s.main.get q

def State.setReg (s : State) (q : Reg8) (v : Byte) : State := { s with main := s.main.set q v }

/-- A pair is high:low (10 R22). SP has a home of its own. -/
def State.pair (s : State) : Rp → Word
  | .bc => joinBytes s.main.b s.main.c
  | .de => joinBytes s.main.d s.main.e
  | .hl => joinBytes s.main.h s.main.l
  | .sp => s.sp

def State.setPair (s : State) (q : Rp) (v : Word) : State :=
  match q with
  | .bc => { s with main := { s.main with b := hiByte v, c := loByte v } }
  | .de => { s with main := { s.main with d := hiByte v, e := loByte v } }
  | .hl => { s with main := { s.main with h := hiByte v, l := loByte v } }
  | .sp => { s with sp := v }

/-- The rp2 pairs: AF is A:F. -/
def State.pair2 (s : State) : Rp2 → Word
  | .bc => s.pair .bc
  | .de => s.pair .de
  | .hl => s.pair .hl
  | .af => joinBytes s.main.a s.main.f.toByte

def State.setPair2 (s : State) (q : Rp2) (v : Word) : State :=
  match q with
  | .bc => s.setPair .bc v
  | .de => s.setPair .de v
  | .hl => s.setPair .hl v
  | .af => { s with main := { s.main with a := hiByte v, f := Flags.ofByte (loByte v) } }

def State.idx (s : State) : Idx → Word
  | .ix => s.ix
  | .iy => s.iy

def State.setIdx (s : State) (x : Idx) (v : Word) : State :=
  match x with
  | .ix => { s with ix := v }
  | .iy => { s with iy := v }

/-- XH or XL (10 R22). -/
def State.half (s : State) (x : Idx) (h : Half) : Byte :=
  match h with
  | .hi => hiByte (s.idx x)
  | .lo => loByte (s.idx x)

/-- A write to one half leaves the other (10 R22). -/
def State.setHalf (s : State) (x : Idx) (h : Half) (v : Byte) : State :=
  match h with
  | .hi => s.setIdx x (joinBytes v (loByte (s.idx x)))
  | .lo => s.setIdx x (joinBytes (hiByte (s.idx x)) v)

def State.setPc (s : State) (v : Word) : State := { s with pc := v }

/-- R[6:0] is incremented modulo 128, R[7] is kept (10 R27). -/
def bumpR (r : Byte) : Byte := (r &&& 0x80#8) ||| ((r + 1#8) &&& 0x7F#8)

def State.incR (s : State) : State := { s with r := bumpR s.r }

/-! ## Bus operations: phases, data transfer and record, 20 R60 to R81 -/

/-- Appends one bus operation to the step's record. -/
def State.record (s : State) (op : BusOp) : State := { s with trace := { s.trace with bus := s.trace.bus ++ [op] } }

/-- The byte memory gives at an address: 0 where nothing is mapped (20 R60). A read has no side effect (R63). -/
def State.peek (s : State) (a : Word) : Byte :=
  match s.cfg.memMap.resolve a with
  | none => 0x00#8
  | some _ => s.mem.read a.toNat

/-- The memory after a write: unchanged where nothing is mapped or the region is read-only (20 R60, R61). -/
def State.poke (s : State) (a : Word) (v : Byte) : Memory :=
  match s.cfg.memMap.resolve a with
  | none => s.mem
  | some q => if q.readOnly then s.mem else s.mem.write a.toNat v

/-- `read_memory`: MemRead(a, 1). -/
def State.memRead (s : State) (a : Word) : Byte × State :=
  let t := s.cycle .readMemory
  (t.peek a, (t.record (.readMemory a (t.peek a))).release)

/-- `write_memory`: MemWrite(a, 1, v). -/
def State.memWrite (s : State) (a : Word) (v : Byte) : State :=
  let t := s.cycle .writeMemory
  ({ t with mem := t.poke a v }.record (.writeMemory a v)).release

/-- `fetch_opcode`: the byte at an address, then the R increment (20 R71). -/
def State.opcodeFetch (s : State) (a : Word) : Byte × State :=
  let t := s.cycle .fetchOpcode
  (t.peek a, (t.record (.fetchOpcode a (t.peek a))).incR.release)

/-- MemRead16: low byte at the lower address, modulo 2^16 (00 R10; 20 R68, R69). -/
def State.memRead16 (s : State) (a : Word) : Word × State :=
  let lo := s.memRead a
  let hi := lo.2.memRead (a + 1)
  (joinBytes hi.1 lo.1, hi.2)

/-- MemWrite16: low byte first (00 R10; 40 R180). -/
def State.memWrite16 (s : State) (a : Word) (v : Word) : State :=
  (s.memWrite a (loByte v)).memWrite (a + 1) (hiByte v)

/-- A device has claimed the port's low byte (20 R64). -/
def State.portMapped (s : State) (port : Word) : Bool := decide (loByte port ∈ s.cfg.ports)

/-- What a port answers (20 R64, R66): 0 where no device is, else the device's answer: the next of `portAnswers`, or the
oracle of the event history. -/
def State.portByte (s : State) (port : Word) : Byte :=
  if s.portMapped port then
    match s.portAnswers with
    | v :: _ => v
    | [] => Config.ioRead s.trace.events port
  else 0x00#8

/-- `read_io`, with its event (20 R66). -/
def State.ioRead (s : State) (port : Word) : Byte × State :=
  let t := s.cycle .readIo
  let v := t.portByte port
  let u : State := { t with
    portAnswers := if t.portMapped port then t.portAnswers.tail else t.portAnswers
    trace := { t.trace with events := t.trace.events ++ [.read port v] } }
  (v, (u.record (.readIo port v)).release)

/-- `write_io`, with its event (20 R67). The effect on a device is outside the core. -/
def State.ioWrite (s : State) (port : Word) (v : Byte) : State :=
  let t := s.cycle .writeIo
  let u : State := { t with trace := { t.trace with events := t.trace.events ++ [.write port v] } }
  (u.record (.writeIo port v)).release

/-! ## Stack, 41 R214 -/

/-- Push16: high byte at SP-1, then low byte at SP-2. -/
def State.push16 (s : State) (v : Word) : State :=
  let s1 := { s with sp := s.sp - 1 }.memWrite (s.sp - 1) (hiByte v)
  { s1 with sp := s.sp - 2 }.memWrite (s.sp - 2) (loByte v)

/-- Pop16: low byte at SP, then high byte at SP+1. -/
def State.pop16 (s : State) : Word × State :=
  let m := s.memRead16 s.sp
  (m.1, { m.2 with sp := s.sp + 2 })

/-! ## Taking an interrupt and returning from one -/

/-- The entry every acknowledge that jumps shares: the return address is pushed and PC goes to the handler
(60 R405, R409, R411). -/
def State.enterAt (s : State) (target : Word) : State := (s.push16 s.pc).setPc target

/-- NMI acknowledge, 60 R405: the byte read at PC is discarded, IFF2 takes IFF1 before IFF1 is cleared. -/
def State.enterNmi (s : State) : State :=
  let s1 := { s with nmiLatch := false, halted := false }.cycle .nmiAcknowledge
  let s2 := ((s1.record (.nmiAcknowledge s.pc)).incR.release).enterAt 0x0066#16
  { s2 with iff2 := s.iff1, iff1 := false }

/-- The acknowledge byte, 60 R410. -/
def State.ackByte (s : State) : Byte := s.intVector.getD s.cfg.intNoVector

/-- `int_acknowledge`: after its last phase the vector is read and consumed, and R is incremented (20 R71; 60 R410). -/
def State.acknowledge (s : State) : Byte × State :=
  let t := s.cycle .intAcknowledge
  (t.ackByte, ({ t with intVector := none }.record (.intAcknowledge t.ackByte)).incR.release)

/-- Mode 2, 60 R411: all 8 bits of the byte are used, the table address wraps. -/
def State.enterMode2 (s : State) (v : Byte) : State :=
  let s1 := s.push16 s.pc
  let m := s1.memRead16 (joinBytes s.i v)
  m.2.setPc m.1

/-- INT acknowledge, 60 R407 to R411: the byte is acknowledged, both flip-flops are cleared, and the mode says where PC
goes. -/
def State.enterInt (s : State) : State :=
  let m := { s with intLatch := false, halted := false }.acknowledge
  let s1 := { m.2 with iff1 := false, iff2 := false }
  match s.im with
  | .mode0 => { s1 with mode0Byte := some m.1 }
  | .mode1 => s1.enterAt 0x0038#16
  | .mode2 => s1.enterMode2 m.1

/-- RETN and RETI: pop PC and set IFF1 from IFF2 (45 R331, R332). -/
def State.returnInterrupt (s : State) : State :=
  let m := s.pop16
  { m.2 with pc := m.1, iff1 := s.iff2 }

end Sys2Proof.Machine
end

