-- ==== Sys2Proof/Machine/Operands.lean ====
section
/-! DEFINITION. Operands: the operand forms of spec 40 R171, R172, R180: registers, halves, immediates, and the memory
operands (HL), (X+d), (rr), (nn) with the operand pre-read and the write-back. -/

namespace Sys2Proof.Machine

/-- Effective address X + sext_16(d), modulo 2^16 (40 R171). -/
def State.ea (s : State) (x : Idx) (d : Byte) : Word := s.idx x + sext16 d

/-- The address of (HL). -/
def State.hl (s : State) : Word := s.pair .hl

/-- The pair operand of ADD X,rp (43 R272). -/
def State.pairX (s : State) (x : Idx) : RpX → Word
  | .bc => s.pair .bc
  | .de => s.pair .de
  | .x => s.idx x
  | .sp => s.sp

/-- The source of LD XH/XL,r (30 R145). -/
def State.xsrc (s : State) (x : Idx) : XSrc → Byte
  | .b => s.main.b
  | .c => s.main.c
  | .d => s.main.d
  | .e => s.main.e
  | .xh => s.half x .hi
  | .xl => s.half x .lo
  | .a => s.main.a

/-- A destination-only memory operand of 8 bits: the pre-read is done and discarded, then the write (40 R172, R180). -/
def State.storeAt (s : State) (a : Word) (v : Byte) : State := ((s.memRead a).2).memWrite a v

/-- A destination-only memory operand of 16 bits: the pre-read of the low byte is discarded (40 R172, R180). -/
def State.storeAt16 (s : State) (a : Word) (v : Word) : State := ((s.memRead a).2).memWrite16 a v

/-- A read-modify-write of a memory operand that leaves F: one read, then one write (40 R172, R180). -/
def State.modifyAt (s : State) (a : Word) (f : Byte → Byte) : State :=
  let m := s.memRead a
  m.2.memWrite a (f m.1)

/-- The port of the (n) forms, A:n (20 R65). -/
def State.portAN (s : State) (n : Byte) : Word := joinBytes s.main.a n

/-- The port of the (C) forms, B:C (20 R65). -/
def State.portBC (s : State) : Word := joinBytes s.main.b s.main.c

end Sys2Proof.Machine
end

