-- ==== Sys2Proof/Machine/Flags.lean ====
section
/-! DEFINITION. Flags: conditions (spec 10 R30), the flag write (40 R174, R177, R178), result, carry, half-carry and
overflow flags (R175, R176), and the operations of the ALU and the shifter with their flags. -/

namespace Sys2Proof

/-- A condition against F, 10 R30. -/
def Cond.holds (cc : Cond) (f : Machine.Flags) : Bool :=
  match cc with
  | .nz => !f.z
  | .z => f.z
  | .nc => !f.c
  | .c => f.c
  | .po => !f.pv
  | .pe => f.pv
  | .p => !f.s
  | .m => f.s

end Sys2Proof

namespace Sys2Proof.Machine

/-! ## The flag write -/

/-- A declarative flag set, 40 R174: `none` keeps the bit. F5 and F3 are always written; `z5` and `z3` are the values they
take under `UNDOC_F53 = z80`. -/
structure FlagWrite where
  s  : Option Bool := none
  z  : Option Bool := none
  h  : Option Bool := none
  pv : Option Bool := none
  n  : Option Bool := none
  c  : Option Bool := none
  z5 : Bool
  z3 : Bool

/-- F5 or F3: a fresh draw, or the named value (40 R177). -/
def State.undocF53 (s : State) (k : Nat) (named : Bool) : Bool :=
  match s.cfg.undocF53 with
  | .draw => Config.freeBit (s.draws + k)
  | .z80 => named

/-- A flag under UNDOC_FLAGS: a fresh draw, or the named value (40 R178). -/
def State.undocFlag (s : State) (k : Nat) (named : Bool) : Bool :=
  match s.cfg.undocFlags with
  | .draw => Config.freeBit (s.draws + k)
  | .z80 => named

/-- The flag write of 40 R174: named flags and the unnamed bits of the old F, written once. Two bits are drawn. -/
def State.writeFlags (s : State) (w : FlagWrite) : State :=
  { s with
    main := { s.main with
      f := { s := w.s.getD s.main.f.s, z := w.z.getD s.main.f.z, f5 := s.undocF53 0 w.z5,
             h := w.h.getD s.main.f.h, f3 := s.undocF53 1 w.z3, pv := w.pv.getD s.main.f.pv,
             n := w.n.getD s.main.f.n, c := w.c.getD s.main.f.c } }
    draws := s.draws + 2 }

/-- The flag write of BIT and of the block I/O forms, whose S and PV are undocumented too (40 R178). `zs` and `zpv` are
their values under `UNDOC_FLAGS = z80`. Four bits are drawn. -/
def State.writeFlagsUndoc (s : State) (w : FlagWrite) (zs zpv : Bool) : State :=
  let t := s.writeFlags { w with s := some (s.undocFlag 2 zs), pv := some (s.undocFlag 3 zpv) }
  { t with draws := s.draws + 4 }

/-! ## Flag formulas -/

/-- Even number of set bits (40 R175). -/
def parityEven (v : Byte) : Bool := decide (((List.range 8).filter (fun k => v.getLsbD k)).length % 2 = 0)

/-- Carry-in as a value of any width. -/
def carryIn (w : Nat) (c : Bool) : BitVec w := BitVec.ofNat w c.toNat

/-- a + b + c modulo 2^w. -/
def addRes {w : Nat} (a b : BitVec w) (c : Bool) : BitVec w := a + b + carryIn w c

/-- a - b - c modulo 2^w. -/
def subRes {w : Nat} (a b : BitVec w) (c : Bool) : BitVec w := a - b - carryIn w c

/-- Carry and half-carry of an addition, on exact integers (40 R176). -/
def addCarry {w : Nat} (a b : BitVec w) (c : Bool) : Bool := decide (2 ^ w ≤ a.toNat + b.toNat + c.toNat)
def addHalf {w : Nat} (h : Nat) (a b : BitVec w) (c : Bool) : Bool :=
  decide (2 ^ h ≤ a.toNat % 2 ^ h + b.toNat % 2 ^ h + c.toNat)

/-- Borrow and half-borrow of a subtraction (40 R176). -/
def subCarry {w : Nat} (a b : BitVec w) (c : Bool) : Bool := decide (a.toNat < b.toNat + c.toNat)
def subHalf {w : Nat} (h : Nat) (a b : BitVec w) (c : Bool) : Bool :=
  decide (a.toNat % 2 ^ h < b.toNat % 2 ^ h + c.toNat)

/-- Overflow (40 R176). -/
def addOverflow {w : Nat} (a b : BitVec w) (c : Bool) : Bool :=
  (a.msb == b.msb) && ((addRes a b c).msb != a.msb)
def subOverflow {w : Nat} (a b : BitVec w) (c : Bool) : Bool :=
  (a.msb != b.msb) && ((subRes a b c).msb != a.msb)

/-- The flags of an 8-bit addition or subtraction (43 R260, R262). -/
def addFlags8 (a b : Byte) (c : Bool) : FlagWrite :=
  let r := addRes a b c
  { s := some r.msb, z := some (r == 0), h := some (addHalf 4 a b c), pv := some (addOverflow a b c),
    n := some false, c := some (addCarry a b c), z5 := r.getLsbD 5, z3 := r.getLsbD 3 }

def subFlags8 (a b : Byte) (c : Bool) : FlagWrite :=
  let r := subRes a b c
  { s := some r.msb, z := some (r == 0), h := some (subHalf 4 a b c), pv := some (subOverflow a b c),
    n := some true, c := some (subCarry a b c), z5 := r.getLsbD 5, z3 := r.getLsbD 3 }

/-- S, Z, P from a byte, N reset, with the given H (40 R175); C is named by the caller or kept. -/
def szpFlags (r : Byte) (h : Bool) (c : Option Bool) : FlagWrite :=
  { s := some r.msb, z := some (r == 0), h := some h, pv := some (parityEven r), n := some false, c := c,
    z5 := r.getLsbD 5, z3 := r.getLsbD 3 }

/-! ## 8-bit ALU, 43 R260 to R269 -/

inductive AluOp where
  | add | adc | sub | sbc | and | xor | or | cp
  deriving DecidableEq, Repr

def State.aluAdd (s : State) (v : Byte) (c : Bool) : State :=
  (s.setReg .a (addRes s.main.a v c)).writeFlags (addFlags8 s.main.a v c)

def State.aluSub (s : State) (v : Byte) (c : Bool) : State :=
  (s.setReg .a (subRes s.main.a v c)).writeFlags (subFlags8 s.main.a v c)

def State.aluLogic (s : State) (r : Byte) (h : Bool) : State :=
  (s.setReg .a r).writeFlags (szpFlags r h (some false))

/-- CP: the flags of SUB, F5 and F3 from the operand, A not written (43 R267). -/
def State.aluCp (s : State) (v : Byte) : State :=
  s.writeFlags { subFlags8 s.main.a v false with z5 := v.getLsbD 5, z3 := v.getLsbD 3 }

/-- An ALU operation of A with an operand. -/
def State.alu (s : State) (op : AluOp) (v : Byte) : State :=
  match op with
  | .add => s.aluAdd v false
  | .adc => s.aluAdd v s.main.f.c
  | .sub => s.aluSub v false
  | .sbc => s.aluSub v s.main.f.c
  | .and => s.aluLogic (s.main.a &&& v) true
  | .xor => s.aluLogic (s.main.a ^^^ v) false
  | .or => s.aluLogic (s.main.a ||| v) false
  | .cp => s.aluCp v

/-- An ALU operation with the byte at an address, by the pre-read. -/
def State.aluAt (s : State) (op : AluOp) (a : Word) : State :=
  let m := s.memRead a
  m.2.alu op m.1

/-- The flags of INC (43 R268) and DEC (R269): as ADD and SUB of 1, C kept. -/
def incFlags (v : Byte) : FlagWrite := { addFlags8 v 1 false with c := none }
def decFlags (v : Byte) : FlagWrite := { subFlags8 v 1 false with c := none }

/-- INC or DEC of a memory operand. -/
def State.incAt (s : State) (a : Word) : State :=
  let m := s.memRead a
  (m.2.memWrite a (m.1 + 1)).writeFlags (incFlags m.1)

def State.decAt (s : State) (a : Word) : State :=
  let m := s.memRead a
  (m.2.memWrite a (m.1 - 1)).writeFlags (decFlags m.1)

/-! ## 16-bit arithmetic, 43 R272 to R274 -/

/-- ADD HL,rp and ADD X,rp: H and C from bits 11 and 15, S Z PV kept. -/
def addFlags16 (a b : Word) : FlagWrite :=
  let r := addRes a b false
  { h := some (addHalf 12 a b false), n := some false, c := some (addCarry a b false),
    z5 := r.getLsbD 13, z3 := r.getLsbD 11 }

def adcFlags16 (a b : Word) (c : Bool) : FlagWrite :=
  let r := addRes a b c
  { s := some r.msb, z := some (r == 0), h := some (addHalf 12 a b c), pv := some (addOverflow a b c),
    n := some false, c := some (addCarry a b c), z5 := r.getLsbD 13, z3 := r.getLsbD 11 }

def sbcFlags16 (a b : Word) (c : Bool) : FlagWrite :=
  let r := subRes a b c
  { s := some r.msb, z := some (r == 0), h := some (subHalf 12 a b c), pv := some (subOverflow a b c),
    n := some true, c := some (subCarry a b c), z5 := r.getLsbD 13, z3 := r.getLsbD 11 }

/-! ## Rotates and shifts, 44 R290 -/

inductive RotOp where
  | rlc | rrc | rl | rr | sla | sra | sll | srl
  deriving DecidableEq, Repr

/-- `v[6:0] : b`. -/
def shiftIn0 (v : Byte) (b : Bool) : Byte := v.extractLsb' 0 7 ++ BitVec.ofBool b

/-- `b : v[7:1]`. -/
def shiftIn7 (v : Byte) (b : Bool) : Byte := BitVec.ofBool b ++ v.extractLsb' 1 7

/-- The result and the carry-out of each function, 44 R290. -/
def rotate (op : RotOp) (v : Byte) (c : Bool) : Byte × Bool :=
  match op with
  | .rlc => (shiftIn0 v (v.getLsbD 7), v.getLsbD 7)
  | .rrc => (shiftIn7 v (v.getLsbD 0), v.getLsbD 0)
  | .rl => (shiftIn0 v c, v.getLsbD 7)
  | .rr => (shiftIn7 v c, v.getLsbD 0)
  | .sla => (shiftIn0 v false, v.getLsbD 7)
  | .sra => (shiftIn7 v (v.getLsbD 7), v.getLsbD 0)
  | .sll => (shiftIn0 v true, v.getLsbD 7)
  | .srl => (shiftIn7 v false, v.getLsbD 0)

/-- The flags of the CB rotates and shifts (44 R295). -/
def rotFlags (r : Byte) (co : Bool) : FlagWrite := szpFlags r false (some co)

/-- RLCA, RRCA, RLA, RRA: C, H, N and the undocumented bits only (44 R291). -/
def State.rotA (s : State) (op : RotOp) : State :=
  let q := rotate op s.main.a s.main.f.c
  (s.setReg .a q.1).writeFlags
    { h := some false, n := some false, c := some q.2, z5 := q.1.getLsbD 5, z3 := q.1.getLsbD 3 }

/-- A CB rotate of a register. -/
def State.rotReg (s : State) (op : RotOp) (r : Reg8) : State :=
  let q := rotate op (s.reg r) s.main.f.c
  (s.setReg r q.1).writeFlags (rotFlags q.1 q.2)

/-- A CB rotate of a memory byte: one read, one write. -/
def State.rotAt (s : State) (op : RotOp) (a : Word) : State :=
  let m := s.memRead a
  let q := rotate op m.1 s.main.f.c
  (m.2.memWrite a q.1).writeFlags (rotFlags q.1 q.2)

/-- A register-copy rotate: the result goes to memory and to r (44 R307). -/
def State.rotAlt (s : State) (op : RotOp) (a : Word) (r : Reg8) : State :=
  let m := s.memRead a
  let q := rotate op m.1 s.main.f.c
  ((m.2.memWrite a q.1).setReg r q.1).writeFlags (rotFlags q.1 q.2)

/-! ## Bits, 44 R303 to R305 -/

/-- BIT b of a byte: Z, H, N fixed; S, PV, F5, F3 undocumented; C kept (44 R303). -/
def State.bitTest (s : State) (b : BitVec 3) (m : Byte) : State :=
  let t := m.getLsbD b.toNat
  s.writeFlagsUndoc
    { z := some (!t), h := some true, n := some false, z5 := m.getLsbD 5, z3 := m.getLsbD 3 }
    (t && decide (b = 7)) (!t)

/-- BIT b of a memory byte: one read, no write. -/
def State.bitTestAt (s : State) (b : BitVec 3) (a : Word) : State :=
  let m := s.memRead a
  m.2.bitTest b m.1

/-- `m & ~(1 << b)` and `m | (1 << b)`. -/
def resBit (b : BitVec 3) (m : Byte) : Byte := m &&& ~~~((1#8) <<< b.toNat)
def setBit (b : BitVec 3) (m : Byte) : Byte := m ||| ((1#8) <<< b.toNat)

/-- RES_ALT and SET_ALT: memory and r take the result, F is kept (44 R316, R317). -/
def State.modifyAlt (s : State) (a : Word) (r : Reg8) (f : Byte → Byte) : State :=
  let m := s.memRead a
  (m.2.memWrite a (f m.1)).setReg r (f m.1)

/-! ## LD A,I and LD A,R, 46 R353 -/

/-- A takes the byte; S and Z from it, PV from IFF2, H and N reset, C kept. -/
def State.loadAIff (s : State) (v : Byte) : State :=
  (s.setReg .a v).writeFlags
    { s := some v.msb, z := some (v == 0), h := some false, pv := some s.iff2, n := some false,
      z5 := v.getLsbD 5, z3 := v.getLsbD 3 }

/-! ## Block units, 42 R240 to R257 -/

/-- The steps of the incrementing and decrementing forms. -/
def stepUp : Word := 1#16
def stepDown : Word := 0xFFFF#16

/-- `PC <- PC - 2` (42 R240). -/
def State.rewind (s : State) : State := { s with pc := s.pc - 2 }

/-- Rewinds where the continue condition holds. -/
def State.rewindIf (s : State) (again : Bool) : State := if again then s.rewind else s

/-- One LDI or LDD unit (42 R242, R243). -/
def State.ldUnit (s : State) (step : Word) : State :=
  let m := s.memRead s.hl
  let n := m.1 + s.main.a
  let s1 := m.2.memWrite (s.pair .de) m.1
  (((s1.setPair .hl (s.hl + step)).setPair .de (s.pair .de + step)).setPair .bc (s.pair .bc - 1)).writeFlags
    { h := some false, pv := some (s.pair .bc - 1 != 0), n := some false, z5 := n.getLsbD 1, z3 := n.getLsbD 3 }

/-- The difference a CPI unit forms: (A - m) mod 2^8. -/
def State.cpDiff (s : State) : Byte := s.main.a - s.peek s.hl

/-- One CPI or CPD unit: H is the bit-4 AND of A and m (42 R241, R246, R247). -/
def State.cpUnit (s : State) (step : Word) : State :=
  let m := s.memRead s.hl
  let r := s.main.a - m.1
  ((m.2.setPair .hl (s.hl + step)).setPair .bc (s.pair .bc - 1)).writeFlags
    { s := some r.msb, z := some (r == 0), h := some ((s.main.a &&& m.1).getLsbD 4),
      pv := some (s.pair .bc - 1 != 0), n := some true, z5 := r.getLsbD 5, z3 := r.getLsbD 3 }

/-- The flags of a block I/O unit: m the byte moved, old B, new B (42 R241, R250, R254). -/
def State.blockIoFlags (s : State) (m old new : Byte) : State :=
  s.writeFlagsUndoc
    { z := some (new == 0), h := some ((m &&& old).getLsbD 4), n := some true,
      z5 := new.getLsbD 5, z3 := new.getLsbD 3 }
    (new.getLsbD 7) false

/-- One INI or IND unit: the port is B:C with the old B (42 R250, R251). -/
def State.inUnit (s : State) (step : Word) : State :=
  let m := s.ioRead s.portBC
  let s1 := m.2.memWrite s.hl m.1
  ((s1.setPair .hl (s.hl + step)).setReg .b (s.main.b - 1)).blockIoFlags m.1 s.main.b (s.main.b - 1)

/-- One OUTI or OUTD unit: the port is B:C with the decremented B (42 R254, R255). -/
def State.outUnit (s : State) (step : Word) : State :=
  let m := s.memRead s.hl
  let s1 := (m.2.setReg .b (s.main.b - 1)).ioWrite (joinBytes (s.main.b - 1) s.main.c) m.1
  (s1.setPair .hl (s.hl + step)).blockIoFlags m.1 s.main.b (s.main.b - 1)

end Sys2Proof.Machine
end

