-- ==== Sys2Proof/Machine/Arith.lean ====
section
/-! DEFINITION. Arith: the arithmetic and logic instructions (spec 43). -/

namespace Sys2Proof.Machine

/-! ## 8-bit ALU with A: register, XH/XL, (HL), (X+d), immediate -/

/-- ADD A,r, ADD A,XH/XL, ADD A,(HL), ADD A,(X+d), ADD A,n (R260). -/
def execAddAR (r : Reg8) (s : State) : Out := .next (s.alu .add (s.reg r))
def execAddAXHalf (x : Idx) (h : Half) (s : State) : Out := .next (s.alu .add (s.half x h))
def execAddAAtHl (s : State) : Out := .next (s.aluAt .add s.hl)
def execAddAAtXd (x : Idx) (d : Byte) (s : State) : Out := .next (s.aluAt .add (s.ea x d))
def execAddAN (n : Byte) (s : State) : Out := .next (s.alu .add n)

/-- ADC A,r, ADC A,XH/XL, ADC A,(HL), ADC A,(X+d), ADC A,n (R261). -/
def execAdcAR (r : Reg8) (s : State) : Out := .next (s.alu .adc (s.reg r))
def execAdcAXHalf (x : Idx) (h : Half) (s : State) : Out := .next (s.alu .adc (s.half x h))
def execAdcAAtHl (s : State) : Out := .next (s.aluAt .adc s.hl)
def execAdcAAtXd (x : Idx) (d : Byte) (s : State) : Out := .next (s.aluAt .adc (s.ea x d))
def execAdcAN (n : Byte) (s : State) : Out := .next (s.alu .adc n)

/-- SUB r, SUB XH/XL, SUB (HL), SUB (X+d), SUB n (R262). -/
def execSubR (r : Reg8) (s : State) : Out := .next (s.alu .sub (s.reg r))
def execSubXHalf (x : Idx) (h : Half) (s : State) : Out := .next (s.alu .sub (s.half x h))
def execSubAtHl (s : State) : Out := .next (s.aluAt .sub s.hl)
def execSubAtXd (x : Idx) (d : Byte) (s : State) : Out := .next (s.aluAt .sub (s.ea x d))
def execSubN (n : Byte) (s : State) : Out := .next (s.alu .sub n)

/-- SBC A,r, SBC A,XH/XL, SBC A,(HL), SBC A,(X+d), SBC A,n (R263). -/
def execSbcAR (r : Reg8) (s : State) : Out := .next (s.alu .sbc (s.reg r))
def execSbcAXHalf (x : Idx) (h : Half) (s : State) : Out := .next (s.alu .sbc (s.half x h))
def execSbcAAtHl (s : State) : Out := .next (s.aluAt .sbc s.hl)
def execSbcAAtXd (x : Idx) (d : Byte) (s : State) : Out := .next (s.aluAt .sbc (s.ea x d))
def execSbcAN (n : Byte) (s : State) : Out := .next (s.alu .sbc n)

/-- AND r, AND XH/XL, AND (HL), AND (X+d), AND n (R264). -/
def execAndR (r : Reg8) (s : State) : Out := .next (s.alu .and (s.reg r))
def execAndXHalf (x : Idx) (h : Half) (s : State) : Out := .next (s.alu .and (s.half x h))
def execAndAtHl (s : State) : Out := .next (s.aluAt .and s.hl)
def execAndAtXd (x : Idx) (d : Byte) (s : State) : Out := .next (s.aluAt .and (s.ea x d))
def execAndN (n : Byte) (s : State) : Out := .next (s.alu .and n)

/-- XOR r, XOR XH/XL, XOR (HL), XOR (X+d), XOR n (R265). -/
def execXorR (r : Reg8) (s : State) : Out := .next (s.alu .xor (s.reg r))
def execXorXHalf (x : Idx) (h : Half) (s : State) : Out := .next (s.alu .xor (s.half x h))
def execXorAtHl (s : State) : Out := .next (s.aluAt .xor s.hl)
def execXorAtXd (x : Idx) (d : Byte) (s : State) : Out := .next (s.aluAt .xor (s.ea x d))
def execXorN (n : Byte) (s : State) : Out := .next (s.alu .xor n)

/-- OR r, OR XH/XL, OR (HL), OR (X+d), OR n (R266). -/
def execOrR (r : Reg8) (s : State) : Out := .next (s.alu .or (s.reg r))
def execOrXHalf (x : Idx) (h : Half) (s : State) : Out := .next (s.alu .or (s.half x h))
def execOrAtHl (s : State) : Out := .next (s.aluAt .or s.hl)
def execOrAtXd (x : Idx) (d : Byte) (s : State) : Out := .next (s.aluAt .or (s.ea x d))
def execOrN (n : Byte) (s : State) : Out := .next (s.alu .or n)

/-- CP r, CP XH/XL, CP (HL), CP (X+d), CP n (R267). -/
def execCpR (r : Reg8) (s : State) : Out := .next (s.alu .cp (s.reg r))
def execCpXHalf (x : Idx) (h : Half) (s : State) : Out := .next (s.alu .cp (s.half x h))
def execCpAtHl (s : State) : Out := .next (s.aluAt .cp s.hl)
def execCpAtXd (x : Idx) (d : Byte) (s : State) : Out := .next (s.aluAt .cp (s.ea x d))
def execCpN (n : Byte) (s : State) : Out := .next (s.alu .cp n)

/-! ## Increment and decrement -/

/-- INC r (R268). -/
def execIncR (r : Reg8) (s : State) : Out := .next ((s.setReg r (s.reg r + 1)).writeFlags (incFlags (s.reg r)))

/-- INC XH/XL (R268). -/
def execIncXHalf (x : Idx) (h : Half) (s : State) : Out :=
  .next ((s.setHalf x h (s.half x h + 1)).writeFlags (incFlags (s.half x h)))

/-- INC (HL) (R268). -/
def execIncAtHl (s : State) : Out := .next (s.incAt s.hl)

/-- INC (X+d) (R268). -/
def execIncAtXd (x : Idx) (d : Byte) (s : State) : Out := .next (s.incAt (s.ea x d))

/-- DEC r (R269). -/
def execDecR (r : Reg8) (s : State) : Out := .next ((s.setReg r (s.reg r - 1)).writeFlags (decFlags (s.reg r)))

/-- DEC XH/XL (R269). -/
def execDecXHalf (x : Idx) (h : Half) (s : State) : Out :=
  .next ((s.setHalf x h (s.half x h - 1)).writeFlags (decFlags (s.half x h)))

/-- DEC (HL) (R269). -/
def execDecAtHl (s : State) : Out := .next (s.decAt s.hl)

/-- DEC (X+d) (R269). -/
def execDecAtXd (x : Idx) (d : Byte) (s : State) : Out := .next (s.decAt (s.ea x d))

/-! ## 16-bit arithmetic -/

/-- INC rp (R270). -/
def execIncRp (rp : Rp) (s : State) : Out := .next (s.setPair rp (s.pair rp + 1))

/-- INC X (R270). -/
def execIncX (x : Idx) (s : State) : Out := .next (s.setIdx x (s.idx x + 1))

/-- DEC rp (R271). -/
def execDecRp (rp : Rp) (s : State) : Out := .next (s.setPair rp (s.pair rp - 1))

/-- DEC X (R271). -/
def execDecX (x : Idx) (s : State) : Out := .next (s.setIdx x (s.idx x - 1))

/-- ADD HL,rp (R272). -/
def execAddHlRp (rp : Rp) (s : State) : Out :=
  .next ((s.setPair .hl (addRes s.hl (s.pair rp) false)).writeFlags (addFlags16 s.hl (s.pair rp)))

/-- ADD X,rp (R272). -/
def execAddXRp (x : Idx) (rp : RpX) (s : State) : Out :=
  .next ((s.setIdx x (addRes (s.idx x) (s.pairX x rp) false)).writeFlags (addFlags16 (s.idx x) (s.pairX x rp)))

/-- ADC HL,rp (R273). -/
def execAdcHlRp (rp : Rp) (s : State) : Out :=
  .next ((s.setPair .hl (addRes s.hl (s.pair rp) s.main.f.c)).writeFlags (adcFlags16 s.hl (s.pair rp) s.main.f.c))

/-- SBC HL,rp (R274). -/
def execSbcHlRp (rp : Rp) (s : State) : Out :=
  .next ((s.setPair .hl (subRes s.hl (s.pair rp) s.main.f.c)).writeFlags (sbcFlags16 s.hl (s.pair rp) s.main.f.c))

/-! ## Adjustments and carry operations -/

/-- A's low nibble. -/
def lowNibble (a : Byte) : Nat := a.toNat % 16

/-- The correction of DAA, R275. -/
def daaCorr (a : Byte) (h c : Bool) : Byte :=
  (if h || decide (lowNibble a > 9) then 0x06#8 else 0x00#8) |||
    (if c || decide (a.toNat > 0x99) then 0x60#8 else 0x00#8)

/-- DAA (R275). -/
def execDaa (s : State) : Out :=
  let a := s.main.a
  let f := s.main.f
  let corr := daaCorr a f.h f.c
  let a' := if f.n then a - corr else a + corr
  let h' := if f.n then f.h && decide (lowNibble a < 6) else decide (lowNibble a > 9)
  .next ((s.setReg .a a').writeFlags
    { szpFlags a' h' (some (f.c || decide (a.toNat > 0x99))) with n := none })

/-- CPL (R276). -/
def execCpl (s : State) : Out :=
  let a := s.main.a ^^^ 0xFF#8
  .next ((s.setReg .a a).writeFlags { h := some true, n := some true, z5 := a.getLsbD 5, z3 := a.getLsbD 3 })

/-- NEG: SUB with a = 0, b = A (R277). -/
def execNeg (s : State) : Out :=
  .next ((s.setReg .a (subRes 0 s.main.a false)).writeFlags (subFlags8 0 s.main.a false))

/-- SCF (R278). -/
def execScf (s : State) : Out :=
  .next (s.writeFlags { c := some true, h := some false, n := some false, z5 := s.main.a.getLsbD 5, z3 := s.main.a.getLsbD 3 })

/-- CCF (R279). -/
def execCcf (s : State) : Out :=
  .next (s.writeFlags
    { h := some s.main.f.c, c := some (!s.main.f.c), n := some false, z5 := s.main.a.getLsbD 5, z3 := s.main.a.getLsbD 3 })

end Sys2Proof.Machine
end

