-- ==== Sys2Proof/Machine/Block.lean ====
section
/-! DEFINITION. Block: the sixteen block instructions (spec 42). A repeating form performs one unit and rewinds PC by 2 while
its continue condition holds (R240). -/

namespace Sys2Proof.Machine

/-- LDI (R242). -/
def execLdi (s : State) : Out := .next (s.ldUnit stepUp)

/-- LDD (R243). -/
def execLdd (s : State) : Out := .next (s.ldUnit stepDown)

/-- LDIR: again while BC ≠ 0 after the unit (R244). -/
def execLdir (s : State) : Out := .next ((s.ldUnit stepUp).rewindIf (s.pair .bc - 1 != 0))

/-- LDDR (R245). -/
def execLddr (s : State) : Out := .next ((s.ldUnit stepDown).rewindIf (s.pair .bc - 1 != 0))

/-- CPI (R246). -/
def execCpi (s : State) : Out := .next (s.cpUnit stepUp)

/-- CPD (R247). -/
def execCpd (s : State) : Out := .next (s.cpUnit stepDown)

/-- CPIR: again while BC ≠ 0 and no match (R248). -/
def execCpir (s : State) : Out := .next ((s.cpUnit stepUp).rewindIf (s.pair .bc - 1 != 0 && s.cpDiff != 0))

/-- CPDR (R249). -/
def execCpdr (s : State) : Out := .next ((s.cpUnit stepDown).rewindIf (s.pair .bc - 1 != 0 && s.cpDiff != 0))

/-- INI (R250). -/
def execIni (s : State) : Out := .next (s.inUnit stepUp)

/-- IND (R251). -/
def execInd (s : State) : Out := .next (s.inUnit stepDown)

/-- INIR: again while B ≠ 0 after the unit (R252). -/
def execInir (s : State) : Out := .next ((s.inUnit stepUp).rewindIf (s.main.b - 1 != 0))

/-- INDR (R253). -/
def execIndr (s : State) : Out := .next ((s.inUnit stepDown).rewindIf (s.main.b - 1 != 0))

/-- OUTI (R254). -/
def execOuti (s : State) : Out := .next (s.outUnit stepUp)

/-- OUTD (R255). -/
def execOutd (s : State) : Out := .next (s.outUnit stepDown)

/-- OTIR: again while B ≠ 0 after the unit (R256). -/
def execOtir (s : State) : Out := .next ((s.outUnit stepUp).rewindIf (s.main.b - 1 != 0))

/-- OTDR (R257). -/
def execOtdr (s : State) : Out := .next ((s.outUnit stepDown).rewindIf (s.main.b - 1 != 0))

end Sys2Proof.Machine
end

