-- ==== Sys2Proof/Machine/Control.lean ====
section
/-! DEFINITION. Control: jumps, calls, returns and restarts (spec 45). PC is the address after the instruction (40 R181). -/

namespace Sys2Proof.Machine

/-- `PC <- PC + sext_16(d)` (R323). -/
def State.branch (s : State) (d : Byte) : State := s.setPc (s.pc + sext16 d)

/-- `Push16(PC); PC <- nn` (R326). -/
def State.callTo (s : State) (nn : Word) : State := (s.push16 s.pc).setPc nn

/-- `PC <- Pop16()` (R328). -/
def State.popPc (s : State) : State :=
  let m := s.pop16
  m.2.setPc m.1

/-- JP nn (R320). -/
def execJp (nn : Word) (s : State) : Out := .next (s.setPc nn)

/-- JP cc,nn (R321, R330). -/
def execJpCc (cc : Cond) (nn : Word) (s : State) : Out := .next (if cc.holds s.main.f then s.setPc nn else s)

/-- JP (HL): no memory is read (R322). -/
def execJpHl (s : State) : Out := .next (s.setPc s.hl)

/-- JP (X) (R322). -/
def execJpX (x : Idx) (s : State) : Out := .next (s.setPc (s.idx x))

/-- JR d (R323). -/
def execJr (d : Byte) (s : State) : Out := .next (s.branch d)

/-- JR cc,d (R324, R330). -/
def execJrCc (cc : Cond) (d : Byte) (s : State) : Out := .next (if cc.holds s.main.f then s.branch d else s)

/-- DJNZ d (R325). -/
def execDjnz (d : Byte) (s : State) : Out :=
  let t := s.setReg .b (s.main.b - 1)
  .next (if s.main.b - 1 != 0 then t.branch d else t)

/-- CALL nn (R326). -/
def execCall (nn : Word) (s : State) : Out := .next (s.callTo nn)

/-- CALL cc,nn: no stack access when the condition is false (R327, R330). -/
def execCallCc (cc : Cond) (nn : Word) (s : State) : Out := .next (if cc.holds s.main.f then s.callTo nn else s)

/-- RET (R328). -/
def execRet (s : State) : Out := .next s.popPc

/-- RET cc: no stack access when the condition is false (R329, R330). -/
def execRetCc (cc : Cond) (s : State) : Out := .next (if cc.holds s.main.f then s.popPc else s)

/-- RETN (R331). -/
def execRetn (s : State) : Out := .next s.returnInterrupt

/-- RETI (R332). -/
def execReti (s : State) : Out := .next s.returnInterrupt

/-- RST p (R333). -/
def execRst (p : Byte) (s : State) : Out := .next (s.callTo (zext16 p))

end Sys2Proof.Machine
end

