-- ==== Sys2Proof/Machine/Io.lean ====
section
/-! DEFINITION. Io: I/O, no-operation and CPU-control instructions (spec 46), and the four prefix rows (30 R122). -/

namespace Sys2Proof.Machine

/-! ## Input and output -/

/-- IN A,(n): F unchanged (R340). -/
def execInAN (n : Byte) (s : State) : Out :=
  let m := s.ioRead (s.portAN n)
  .next (m.2.setReg .a m.1)

/-- IN r,(C) (R341). -/
def execInRC (r : Reg8) (s : State) : Out :=
  let m := s.ioRead s.portBC
  .next ((m.2.setReg r m.1).writeFlags (szpFlags m.1 false none))

/-- IN (C): flags only (R341). -/
def execInC (s : State) : Out :=
  let m := s.ioRead s.portBC
  .next (m.2.writeFlags (szpFlags m.1 false none))

/-- OUT (n),A (R342). -/
def execOutNA (n : Byte) (s : State) : Out := .next (s.ioWrite (s.portAN n) s.main.a)

/-- OUT (C),r (R343). -/
def execOutCR (r : Reg8) (s : State) : Out := .next (s.ioWrite s.portBC (s.reg r))

/-- OUT (C),0 (R343). -/
def execOutC0 (s : State) : Out := .next (s.ioWrite s.portBC 0x00#8)

/-! ## No-operations -/

/-- NOP (R344). -/
def execNop (s : State) : Out := .next s

/-- NONI (R345). -/
def execNoni (s : State) : Out := .next s

/-- The empty entry (R346). -/
def execNopEmpty (s : State) : Out := .next s

/-! ## CPU control -/

/-- HALT (R347). -/
def execHalt (s : State) : Out := .next { s with halted := true }

/-- DI (R348). -/
def execDi (s : State) : Out := .next { s with iff1 := false, iff2 := false }

/-- EI (R349). -/
def execEi (s : State) : Out := .next { s with iff1 := true, iff2 := true }

/-- mode(i), R350. -/
def imMode (i : BitVec 2) : IntMode :=
  match i.toNat with
  | 2 => .mode1
  | 3 => .mode2
  | _ => .mode0

/-- IM (R350). -/
def execIm (i : BitVec 2) (s : State) : Out := .next { s with im := imMode i }

/-- LD I,A (R351). -/
def execLdIA (s : State) : Out := .next { s with i := s.main.a }

/-- LD R,A: all 8 bits (R352). -/
def execLdRA (s : State) : Out := .next { s with r := s.main.a }

/-- LD A,I (R353). -/
def execLdAI (s : State) : Out := .next (s.loadAIff s.i)

/-- LD A,R (R354). -/
def execLdAR (s : State) : Out := .next (s.loadAIff s.r)

/-! ## Prefix rows: `prefix <- b`, and the decoder waits for the next byte (30 R122 step 5; log entry 14) -/

def State.setPfx (s : State) (p : Pfx) : State := { s with decoder := { s.decoder with pfx := p } }

def execPrefixCB (s : State) : Out := .next (s.setPfx .CB)
def execPrefixDD (s : State) : Out := .next (s.setPfx .DD)
def execPrefixED (s : State) : Out := .next (s.setPfx .ED)
def execPrefixFD (s : State) : Out := .next (s.setPfx .FD)

end Sys2Proof.Machine
end

