-- ==== Sys2Proof/Machine/Load.lean ====
section
/-! DEFINITION. Load: the load, stack and exchange instructions (spec 41). -/

namespace Sys2Proof.Machine

/-! ## 8-bit loads -/

/-- LD r,r' (R201). -/
def execLdRR (r r' : Reg8) (s : State) : Out := .next (s.setReg r (s.reg r'))

/-- LD r,XH/XL (R201; 30 R145). -/
def execLdRXHalf (r : Reg8) (x : Idx) (h : Half) (s : State) : Out := .next (s.setReg r (s.half x h))

/-- LD XH/XL,r (R201; 30 R145). -/
def execLdXHalfR (x : Idx) (h : Half) (src : XSrc) (s : State) : Out := .next (s.setHalf x h (s.xsrc x src))

/-- LD r,n (R202). -/
def execLdRN (r : Reg8) (n : Byte) (s : State) : Out := .next (s.setReg r n)

/-- LD XH/XL,n (R202). -/
def execLdXHalfN (x : Idx) (h : Half) (n : Byte) (s : State) : Out := .next (s.setHalf x h n)

/-- LD (HL),r (R203). -/
def execLdAtHlR (r : Reg8) (s : State) : Out := .next (s.storeAt s.hl (s.reg r))

/-- LD (X+d),r (R203). -/
def execLdAtXdR (x : Idx) (d : Byte) (r : Reg8) (s : State) : Out := .next (s.storeAt (s.ea x d) (s.reg r))

/-- LD (X+d),XH/XL: DD 74 stores IXH, not H (R203; 30 R133). -/
def execLdAtXdXHalf (x : Idx) (d : Byte) (h : Half) (s : State) : Out := .next (s.storeAt (s.ea x d) (s.half x h))

/-- LD (HL),n (R204). -/
def execLdAtHlN (n : Byte) (s : State) : Out := .next (s.storeAt s.hl n)

/-- LD (X+d),n (R204). -/
def execLdAtXdN (x : Idx) (d n : Byte) (s : State) : Out := .next (s.storeAt (s.ea x d) n)

/-- LD A,(rr) (R206). -/
def execLdAAtRr (rr : Rp) (s : State) : Out :=
  let m := s.memRead (s.pair rr)
  .next (m.2.setReg .a m.1)

/-- LD (rr),A (R207). -/
def execLdAtRrA (rr : Rp) (s : State) : Out := .next (s.storeAt (s.pair rr) s.main.a)

/-- LD A,(nn) (R208). -/
def execLdAAtNn (nn : Word) (s : State) : Out :=
  let m := s.memRead nn
  .next (m.2.setReg .a m.1)

/-- LD (nn),A (R209). -/
def execLdAtNnA (nn : Word) (s : State) : Out := .next (s.storeAt nn s.main.a)

/-! ## 16-bit loads -/

/-- LD rp,nn (R210). -/
def execLdRpNn (rp : Rp) (nn : Word) (s : State) : Out := .next (s.setPair rp nn)

/-- LD X,nn (R210). -/
def execLdXNn (x : Idx) (nn : Word) (s : State) : Out := .next (s.setIdx x nn)

/-- LD HL,(nn) (R211). -/
def execLdHlAtNn (nn : Word) (s : State) : Out :=
  let m := s.memRead16 nn
  .next (m.2.setPair .hl m.1)

/-- LD X,(nn) (R211). -/
def execLdXAtNn (x : Idx) (nn : Word) (s : State) : Out :=
  let m := s.memRead16 nn
  .next (m.2.setIdx x m.1)

/-- LD (nn),HL (R212). -/
def execLdAtNnHl (nn : Word) (s : State) : Out := .next (s.storeAt16 nn s.hl)

/-- LD (nn),X (R212). -/
def execLdAtNnX (x : Idx) (nn : Word) (s : State) : Out := .next (s.storeAt16 nn (s.idx x))

/-- LD (nn),rp (R213). -/
def execLdAtNnRp (rp : Rp) (nn : Word) (s : State) : Out := .next (s.storeAt16 nn (s.pair rp))

/-- LD rp,(nn) (R221). -/
def execLdRpAtNn (rp : Rp) (nn : Word) (s : State) : Out :=
  let m := s.memRead16 nn
  .next (m.2.setPair rp m.1)

/-- LD SP,HL (R222). -/
def execLdSpHl (s : State) : Out := .next (s.setPair .sp s.hl)

/-- LD SP,X (R222). -/
def execLdSpX (x : Idx) (s : State) : Out := .next (s.setPair .sp (s.idx x))

/-! ## Stack -/

/-- PUSH rp2 (R215). -/
def execPushRp2 (rp : Rp2) (s : State) : Out := .next (s.push16 (s.pair2 rp))

/-- PUSH X (R215). -/
def execPushX (x : Idx) (s : State) : Out := .next (s.push16 (s.idx x))

/-- POP rp2; POP AF writes all eight bits of F (R216). -/
def execPopRp2 (rp : Rp2) (s : State) : Out :=
  let m := s.pop16
  .next (m.2.setPair2 rp m.1)

/-- POP X (R216). -/
def execPopX (x : Idx) (s : State) : Out :=
  let m := s.pop16
  .next (m.2.setIdx x m.1)

/-! ## Exchanges -/

/-- EX DE,HL (R217). -/
def execExDeHl (s : State) : Out := .next ((s.setPair .de s.hl).setPair .hl (s.pair .de))

/-- EX AF,AF' (R218). -/
def execExAfAf (s : State) : Out :=
  .next { s with main := { s.main with a := s.alt.a, f := s.alt.f }, alt := { s.alt with a := s.main.a, f := s.main.f } }

/-- EX (SP),HL: read low, read high, write low, write high (R219). -/
def execExAtSpHl (s : State) : Out :=
  let m := s.memRead16 s.sp
  .next ((m.2.memWrite16 s.sp s.hl).setPair .hl m.1)

/-- EX (SP),X (R219). -/
def execExAtSpX (x : Idx) (s : State) : Out :=
  let m := s.memRead16 s.sp
  .next ((m.2.memWrite16 s.sp (s.idx x)).setIdx x m.1)

/-- EXX: BC, DE and HL with the shadow pairs (R220). -/
def execExx (s : State) : Out :=
  .next { s with main := { s.alt with a := s.main.a, f := s.main.f }, alt := { s.main with a := s.alt.a, f := s.alt.f } }

end Sys2Proof.Machine
end

