-- ==== Sys2Proof/Machine/Rotate.lean ====
section
/-! DEFINITION. Rotate: the rotate, shift and bit instructions (spec 44). -/

namespace Sys2Proof.Machine

/-- RLCA, RRCA, RLA, RRA (R291 to R294). -/
def execRlca (s : State) : Out := .next (s.rotA .rlc)
def execRrca (s : State) : Out := .next (s.rotA .rrc)
def execRla (s : State) : Out := .next (s.rotA .rl)
def execRra (s : State) : Out := .next (s.rotA .rr)

/-- RLC r, RLC (HL) (R295), RLC (X+d) (R306), RLC_ALT r,(X+d) (R308). -/
def execRlcR (r : Reg8) (s : State) : Out := .next (s.rotReg .rlc r)
def execRlcAtHl (s : State) : Out := .next (s.rotAt .rlc s.hl)
def execRlcAtXd (x : Idx) (d : Byte) (s : State) : Out := .next (s.rotAt .rlc (s.ea x d))
def execRlcAlt (x : Idx) (d : Byte) (r : Reg8) (s : State) : Out := .next (s.rotAlt .rlc (s.ea x d) r)

/-- RRC r, RRC (HL) (R296), RRC (X+d) (R306), RRC_ALT r,(X+d) (R309). -/
def execRrcR (r : Reg8) (s : State) : Out := .next (s.rotReg .rrc r)
def execRrcAtHl (s : State) : Out := .next (s.rotAt .rrc s.hl)
def execRrcAtXd (x : Idx) (d : Byte) (s : State) : Out := .next (s.rotAt .rrc (s.ea x d))
def execRrcAlt (x : Idx) (d : Byte) (r : Reg8) (s : State) : Out := .next (s.rotAlt .rrc (s.ea x d) r)

/-- RL r, RL (HL) (R297), RL (X+d) (R306), RL_ALT r,(X+d) (R310). -/
def execRlR (r : Reg8) (s : State) : Out := .next (s.rotReg .rl r)
def execRlAtHl (s : State) : Out := .next (s.rotAt .rl s.hl)
def execRlAtXd (x : Idx) (d : Byte) (s : State) : Out := .next (s.rotAt .rl (s.ea x d))
def execRlAlt (x : Idx) (d : Byte) (r : Reg8) (s : State) : Out := .next (s.rotAlt .rl (s.ea x d) r)

/-- RR r, RR (HL) (R298), RR (X+d) (R306), RR_ALT r,(X+d) (R311). -/
def execRrR (r : Reg8) (s : State) : Out := .next (s.rotReg .rr r)
def execRrAtHl (s : State) : Out := .next (s.rotAt .rr s.hl)
def execRrAtXd (x : Idx) (d : Byte) (s : State) : Out := .next (s.rotAt .rr (s.ea x d))
def execRrAlt (x : Idx) (d : Byte) (r : Reg8) (s : State) : Out := .next (s.rotAlt .rr (s.ea x d) r)

/-- SLA r, SLA (HL) (R299), SLA (X+d) (R306), SLA_ALT r,(X+d) (R312). -/
def execSlaR (r : Reg8) (s : State) : Out := .next (s.rotReg .sla r)
def execSlaAtHl (s : State) : Out := .next (s.rotAt .sla s.hl)
def execSlaAtXd (x : Idx) (d : Byte) (s : State) : Out := .next (s.rotAt .sla (s.ea x d))
def execSlaAlt (x : Idx) (d : Byte) (r : Reg8) (s : State) : Out := .next (s.rotAlt .sla (s.ea x d) r)

/-- SRA r, SRA (HL) (R300), SRA (X+d) (R306), SRA_ALT r,(X+d) (R313). -/
def execSraR (r : Reg8) (s : State) : Out := .next (s.rotReg .sra r)
def execSraAtHl (s : State) : Out := .next (s.rotAt .sra s.hl)
def execSraAtXd (x : Idx) (d : Byte) (s : State) : Out := .next (s.rotAt .sra (s.ea x d))
def execSraAlt (x : Idx) (d : Byte) (r : Reg8) (s : State) : Out := .next (s.rotAlt .sra (s.ea x d) r)

/-- SLL r, SLL (HL) (R301), SLL (X+d) (R306), SLL_ALT r,(X+d) (R314). -/
def execSllR (r : Reg8) (s : State) : Out := .next (s.rotReg .sll r)
def execSllAtHl (s : State) : Out := .next (s.rotAt .sll s.hl)
def execSllAtXd (x : Idx) (d : Byte) (s : State) : Out := .next (s.rotAt .sll (s.ea x d))
def execSllAlt (x : Idx) (d : Byte) (r : Reg8) (s : State) : Out := .next (s.rotAlt .sll (s.ea x d) r)

/-- SRL r, SRL (HL) (R302), SRL (X+d) (R306), SRL_ALT r,(X+d) (R315). -/
def execSrlR (r : Reg8) (s : State) : Out := .next (s.rotReg .srl r)
def execSrlAtHl (s : State) : Out := .next (s.rotAt .srl s.hl)
def execSrlAtXd (x : Idx) (d : Byte) (s : State) : Out := .next (s.rotAt .srl (s.ea x d))
def execSrlAlt (x : Idx) (d : Byte) (r : Reg8) (s : State) : Out := .next (s.rotAlt .srl (s.ea x d) r)

/-- BIT b,r, BIT b,(HL), BIT b,(X+d) (R303; 30 R137). -/
def execBitR (b : BitVec 3) (r : Reg8) (s : State) : Out := .next (s.bitTest b (s.reg r))
def execBitAtHl (b : BitVec 3) (s : State) : Out := .next (s.bitTestAt b s.hl)
def execBitAtXd (b : BitVec 3) (x : Idx) (d : Byte) (s : State) : Out := .next (s.bitTestAt b (s.ea x d))

/-- RES b,r, RES b,(HL) (R304), RES b,(X+d) (R306), RES_ALT b,(X+d),r (R316). -/
def execResR (b : BitVec 3) (r : Reg8) (s : State) : Out := .next (s.setReg r (resBit b (s.reg r)))
def execResAtHl (b : BitVec 3) (s : State) : Out := .next (s.modifyAt s.hl (resBit b))
def execResAtXd (b : BitVec 3) (x : Idx) (d : Byte) (s : State) : Out := .next (s.modifyAt (s.ea x d) (resBit b))
def execResAlt (b : BitVec 3) (x : Idx) (d : Byte) (r : Reg8) (s : State) : Out :=
  .next (s.modifyAlt (s.ea x d) r (resBit b))

/-- SET b,r, SET b,(HL) (R305), SET b,(X+d) (R306), SET_ALT b,(X+d),r (R317). -/
def execSetR (b : BitVec 3) (r : Reg8) (s : State) : Out := .next (s.setReg r (setBit b (s.reg r)))
def execSetAtHl (b : BitVec 3) (s : State) : Out := .next (s.modifyAt s.hl (setBit b))
def execSetAtXd (b : BitVec 3) (x : Idx) (d : Byte) (s : State) : Out := .next (s.modifyAt (s.ea x d) (setBit b))
def execSetAlt (b : BitVec 3) (x : Idx) (d : Byte) (r : Reg8) (s : State) : Out :=
  .next (s.modifyAlt (s.ea x d) r (setBit b))

/-- `hi : lo` of two nibbles. -/
def joinNibbles (hi lo : BitVec 4) : Byte := hi ++ lo

def hiNibble (v : Byte) : BitVec 4 := v.extractLsb' 4 4
def loNibble (v : Byte) : BitVec 4 := v.extractLsb' 0 4

/-- RLD (R318). -/
def execRld (s : State) : Out :=
  let m := s.memRead s.hl
  let a := joinNibbles (hiNibble s.main.a) (hiNibble m.1)
  .next (((m.2.memWrite s.hl (joinNibbles (loNibble m.1) (loNibble s.main.a))).setReg .a a).writeFlags (szpFlags a false none))

/-- RRD (R319). -/
def execRrd (s : State) : Out :=
  let m := s.memRead s.hl
  let a := joinNibbles (hiNibble s.main.a) (loNibble m.1)
  .next (((m.2.memWrite s.hl (joinNibbles (loNibble s.main.a) (hiNibble m.1))).setReg .a a).writeFlags (szpFlags a false none))

end Sys2Proof.Machine
end

