-- ==== Sys2Proof/Machine/Dispatch.lean ====
section
/-! DEFINITION. Dispatch: one arm per instruction, each one call of its meaning. -/

namespace Sys2Proof.Machine
open Host

def exec (i : Instr) (s : State) : Host.Outcome State Fault Refusal :=
  match i with
  | .nop => Sys2Proof.Machine.execNop s
  | .ldRpNn rp nn => Sys2Proof.Machine.execLdRpNn rp nn s
  | .ldAtRrA rr => Sys2Proof.Machine.execLdAtRrA rr s
  | .incRp rp => Sys2Proof.Machine.execIncRp rp s
  | .incR r => Sys2Proof.Machine.execIncR r s
  | .decR r => Sys2Proof.Machine.execDecR r s
  | .ldRN r n => Sys2Proof.Machine.execLdRN r n s
  | .rlca => Sys2Proof.Machine.execRlca s
  | .exAfAf => Sys2Proof.Machine.execExAfAf s
  | .addHlRp rp => Sys2Proof.Machine.execAddHlRp rp s
  | .ldAAtRr rr => Sys2Proof.Machine.execLdAAtRr rr s
  | .decRp rp => Sys2Proof.Machine.execDecRp rp s
  | .rrca => Sys2Proof.Machine.execRrca s
  | .djnz d => Sys2Proof.Machine.execDjnz d s
  | .rla => Sys2Proof.Machine.execRla s
  | .jr d => Sys2Proof.Machine.execJr d s
  | .rra => Sys2Proof.Machine.execRra s
  | .jrCc cc d => Sys2Proof.Machine.execJrCc cc d s
  | .ldAtNnHl nn => Sys2Proof.Machine.execLdAtNnHl nn s
  | .daa => Sys2Proof.Machine.execDaa s
  | .ldHlAtNn nn => Sys2Proof.Machine.execLdHlAtNn nn s
  | .cpl => Sys2Proof.Machine.execCpl s
  | .ldAtNnA nn => Sys2Proof.Machine.execLdAtNnA nn s
  | .incAtHl => Sys2Proof.Machine.execIncAtHl s
  | .decAtHl => Sys2Proof.Machine.execDecAtHl s
  | .ldAtHlN n => Sys2Proof.Machine.execLdAtHlN n s
  | .scf => Sys2Proof.Machine.execScf s
  | .ldAAtNn nn => Sys2Proof.Machine.execLdAAtNn nn s
  | .ccf => Sys2Proof.Machine.execCcf s
  | .ldRR r r' => Sys2Proof.Machine.execLdRR r r' s
  | .nopEmpty => Sys2Proof.Machine.execNopEmpty s
  | .ldAtHlR r => Sys2Proof.Machine.execLdAtHlR r s
  | .halt => Sys2Proof.Machine.execHalt s
  | .addAR r => Sys2Proof.Machine.execAddAR r s
  | .addAAtHl => Sys2Proof.Machine.execAddAAtHl s
  | .adcAR r => Sys2Proof.Machine.execAdcAR r s
  | .adcAAtHl => Sys2Proof.Machine.execAdcAAtHl s
  | .subR r => Sys2Proof.Machine.execSubR r s
  | .subAtHl => Sys2Proof.Machine.execSubAtHl s
  | .sbcAR r => Sys2Proof.Machine.execSbcAR r s
  | .sbcAAtHl => Sys2Proof.Machine.execSbcAAtHl s
  | .andR r => Sys2Proof.Machine.execAndR r s
  | .andAtHl => Sys2Proof.Machine.execAndAtHl s
  | .xorR r => Sys2Proof.Machine.execXorR r s
  | .xorAtHl => Sys2Proof.Machine.execXorAtHl s
  | .orR r => Sys2Proof.Machine.execOrR r s
  | .orAtHl => Sys2Proof.Machine.execOrAtHl s
  | .cpR r => Sys2Proof.Machine.execCpR r s
  | .cpAtHl => Sys2Proof.Machine.execCpAtHl s
  | .retCc cc => Sys2Proof.Machine.execRetCc cc s
  | .popRp2 rp => Sys2Proof.Machine.execPopRp2 rp s
  | .jpCc cc nn => Sys2Proof.Machine.execJpCc cc nn s
  | .jp nn => Sys2Proof.Machine.execJp nn s
  | .callCc cc nn => Sys2Proof.Machine.execCallCc cc nn s
  | .pushRp2 rp => Sys2Proof.Machine.execPushRp2 rp s
  | .addAN n => Sys2Proof.Machine.execAddAN n s
  | .rst p => Sys2Proof.Machine.execRst p s
  | .ret => Sys2Proof.Machine.execRet s
  | .prefixCB => Sys2Proof.Machine.execPrefixCB s
  | .call nn => Sys2Proof.Machine.execCall nn s
  | .adcAN n => Sys2Proof.Machine.execAdcAN n s
  | .outNA n => Sys2Proof.Machine.execOutNA n s
  | .subN n => Sys2Proof.Machine.execSubN n s
  | .exx => Sys2Proof.Machine.execExx s
  | .inAN n => Sys2Proof.Machine.execInAN n s
  | .prefixDD => Sys2Proof.Machine.execPrefixDD s
  | .sbcAN n => Sys2Proof.Machine.execSbcAN n s
  | .exAtSpHl => Sys2Proof.Machine.execExAtSpHl s
  | .andN n => Sys2Proof.Machine.execAndN n s
  | .jpHl => Sys2Proof.Machine.execJpHl s
  | .exDeHl => Sys2Proof.Machine.execExDeHl s
  | .prefixED => Sys2Proof.Machine.execPrefixED s
  | .xorN n => Sys2Proof.Machine.execXorN n s
  | .di => Sys2Proof.Machine.execDi s
  | .orN n => Sys2Proof.Machine.execOrN n s
  | .ldSpHl => Sys2Proof.Machine.execLdSpHl s
  | .ei => Sys2Proof.Machine.execEi s
  | .prefixFD => Sys2Proof.Machine.execPrefixFD s
  | .cpN n => Sys2Proof.Machine.execCpN n s
  | .rlcR r => Sys2Proof.Machine.execRlcR r s
  | .rlcAtHl => Sys2Proof.Machine.execRlcAtHl s
  | .rrcR r => Sys2Proof.Machine.execRrcR r s
  | .rrcAtHl => Sys2Proof.Machine.execRrcAtHl s
  | .rlR r => Sys2Proof.Machine.execRlR r s
  | .rlAtHl => Sys2Proof.Machine.execRlAtHl s
  | .rrR r => Sys2Proof.Machine.execRrR r s
  | .rrAtHl => Sys2Proof.Machine.execRrAtHl s
  | .slaR r => Sys2Proof.Machine.execSlaR r s
  | .slaAtHl => Sys2Proof.Machine.execSlaAtHl s
  | .sraR r => Sys2Proof.Machine.execSraR r s
  | .sraAtHl => Sys2Proof.Machine.execSraAtHl s
  | .sllR r => Sys2Proof.Machine.execSllR r s
  | .sllAtHl => Sys2Proof.Machine.execSllAtHl s
  | .srlR r => Sys2Proof.Machine.execSrlR r s
  | .srlAtHl => Sys2Proof.Machine.execSrlAtHl s
  | .bitR b r => Sys2Proof.Machine.execBitR b r s
  | .bitAtHl b => Sys2Proof.Machine.execBitAtHl b s
  | .resR b r => Sys2Proof.Machine.execResR b r s
  | .resAtHl b => Sys2Proof.Machine.execResAtHl b s
  | .setR b r => Sys2Proof.Machine.execSetR b r s
  | .setAtHl b => Sys2Proof.Machine.execSetAtHl b s
  | .noni => Sys2Proof.Machine.execNoni s
  | .inRC r => Sys2Proof.Machine.execInRC r s
  | .outCR r => Sys2Proof.Machine.execOutCR r s
  | .sbcHlRp rp => Sys2Proof.Machine.execSbcHlRp rp s
  | .ldAtNnRp rp nn => Sys2Proof.Machine.execLdAtNnRp rp nn s
  | .neg => Sys2Proof.Machine.execNeg s
  | .retn => Sys2Proof.Machine.execRetn s
  | .im k => Sys2Proof.Machine.execIm k s
  | .ldIA => Sys2Proof.Machine.execLdIA s
  | .adcHlRp rp => Sys2Proof.Machine.execAdcHlRp rp s
  | .ldRpAtNn rp nn => Sys2Proof.Machine.execLdRpAtNn rp nn s
  | .reti => Sys2Proof.Machine.execReti s
  | .ldRA => Sys2Proof.Machine.execLdRA s
  | .ldAI => Sys2Proof.Machine.execLdAI s
  | .ldAR => Sys2Proof.Machine.execLdAR s
  | .rrd => Sys2Proof.Machine.execRrd s
  | .rld => Sys2Proof.Machine.execRld s
  | .inC => Sys2Proof.Machine.execInC s
  | .outC0 => Sys2Proof.Machine.execOutC0 s
  | .ldi => Sys2Proof.Machine.execLdi s
  | .cpi => Sys2Proof.Machine.execCpi s
  | .ini => Sys2Proof.Machine.execIni s
  | .outi => Sys2Proof.Machine.execOuti s
  | .ldd => Sys2Proof.Machine.execLdd s
  | .cpd => Sys2Proof.Machine.execCpd s
  | .ind => Sys2Proof.Machine.execInd s
  | .outd => Sys2Proof.Machine.execOutd s
  | .ldir => Sys2Proof.Machine.execLdir s
  | .cpir => Sys2Proof.Machine.execCpir s
  | .inir => Sys2Proof.Machine.execInir s
  | .otir => Sys2Proof.Machine.execOtir s
  | .lddr => Sys2Proof.Machine.execLddr s
  | .cpdr => Sys2Proof.Machine.execCpdr s
  | .indr => Sys2Proof.Machine.execIndr s
  | .otdr => Sys2Proof.Machine.execOtdr s
  | .addXRp x rp => Sys2Proof.Machine.execAddXRp x rp s
  | .ldXNn x nn => Sys2Proof.Machine.execLdXNn x nn s
  | .ldAtNnX x nn => Sys2Proof.Machine.execLdAtNnX x nn s
  | .incX x => Sys2Proof.Machine.execIncX x s
  | .incXHalf x h => Sys2Proof.Machine.execIncXHalf x h s
  | .decXHalf x h => Sys2Proof.Machine.execDecXHalf x h s
  | .ldXHalfN x h n => Sys2Proof.Machine.execLdXHalfN x h n s
  | .ldXAtNn x nn => Sys2Proof.Machine.execLdXAtNn x nn s
  | .decX x => Sys2Proof.Machine.execDecX x s
  | .incAtXd x d => Sys2Proof.Machine.execIncAtXd x d s
  | .decAtXd x d => Sys2Proof.Machine.execDecAtXd x d s
  | .ldAtXdN x d n => Sys2Proof.Machine.execLdAtXdN x d n s
  | .ldRXHalf r x h => Sys2Proof.Machine.execLdRXHalf r x h s
  | .ldXHalfR x h src => Sys2Proof.Machine.execLdXHalfR x h src s
  | .ldAtXdR x d r => Sys2Proof.Machine.execLdAtXdR x d r s
  | .ldAtXdXHalf x d h => Sys2Proof.Machine.execLdAtXdXHalf x d h s
  | .addAXHalf x h => Sys2Proof.Machine.execAddAXHalf x h s
  | .addAAtXd x d => Sys2Proof.Machine.execAddAAtXd x d s
  | .adcAXHalf x h => Sys2Proof.Machine.execAdcAXHalf x h s
  | .adcAAtXd x d => Sys2Proof.Machine.execAdcAAtXd x d s
  | .subXHalf x h => Sys2Proof.Machine.execSubXHalf x h s
  | .subAtXd x d => Sys2Proof.Machine.execSubAtXd x d s
  | .sbcAXHalf x h => Sys2Proof.Machine.execSbcAXHalf x h s
  | .sbcAAtXd x d => Sys2Proof.Machine.execSbcAAtXd x d s
  | .andXHalf x h => Sys2Proof.Machine.execAndXHalf x h s
  | .andAtXd x d => Sys2Proof.Machine.execAndAtXd x d s
  | .xorXHalf x h => Sys2Proof.Machine.execXorXHalf x h s
  | .xorAtXd x d => Sys2Proof.Machine.execXorAtXd x d s
  | .orXHalf x h => Sys2Proof.Machine.execOrXHalf x h s
  | .orAtXd x d => Sys2Proof.Machine.execOrAtXd x d s
  | .cpXHalf x h => Sys2Proof.Machine.execCpXHalf x h s
  | .cpAtXd x d => Sys2Proof.Machine.execCpAtXd x d s
  | .popX x => Sys2Proof.Machine.execPopX x s
  | .exAtSpX x => Sys2Proof.Machine.execExAtSpX x s
  | .pushX x => Sys2Proof.Machine.execPushX x s
  | .jpX x => Sys2Proof.Machine.execJpX x s
  | .ldSpX x => Sys2Proof.Machine.execLdSpX x s
  | .rlcAlt x d r => Sys2Proof.Machine.execRlcAlt x d r s
  | .rlcAtXd x d => Sys2Proof.Machine.execRlcAtXd x d s
  | .rrcAlt x d r => Sys2Proof.Machine.execRrcAlt x d r s
  | .rrcAtXd x d => Sys2Proof.Machine.execRrcAtXd x d s
  | .rlAlt x d r => Sys2Proof.Machine.execRlAlt x d r s
  | .rlAtXd x d => Sys2Proof.Machine.execRlAtXd x d s
  | .rrAlt x d r => Sys2Proof.Machine.execRrAlt x d r s
  | .rrAtXd x d => Sys2Proof.Machine.execRrAtXd x d s
  | .slaAlt x d r => Sys2Proof.Machine.execSlaAlt x d r s
  | .slaAtXd x d => Sys2Proof.Machine.execSlaAtXd x d s
  | .sraAlt x d r => Sys2Proof.Machine.execSraAlt x d r s
  | .sraAtXd x d => Sys2Proof.Machine.execSraAtXd x d s
  | .sllAlt x d r => Sys2Proof.Machine.execSllAlt x d r s
  | .sllAtXd x d => Sys2Proof.Machine.execSllAtXd x d s
  | .srlAlt x d r => Sys2Proof.Machine.execSrlAlt x d r s
  | .srlAtXd x d => Sys2Proof.Machine.execSrlAtXd x d s
  | .bitAtXd b x d => Sys2Proof.Machine.execBitAtXd b x d s
  | .resAlt b x d r => Sys2Proof.Machine.execResAlt b x d r s
  | .resAtXd b x d => Sys2Proof.Machine.execResAtXd b x d s
  | .setAlt b x d r => Sys2Proof.Machine.execSetAlt b x d r s
  | .setAtXd b x d => Sys2Proof.Machine.execSetAtXd b x d s

end Sys2Proof.Machine
end

