-- ==== Sys2Proof/Machine/Fetch.lean ====
section
/-! DEFINITION. Fetch: the bytes of an instruction, one feed of the decoder for each (spec 70 R453; 30 R121; 60 R412), and
the placing of an opcode-table word where the next step fetches. -/

namespace Sys2Proof.Machine

/-- The next instruction byte: the mode-0 byte with no fetch, else an opcode fetch or a memory read at PC, after which PC
is incremented (70 R453; 10 R25; 60 R412). -/
def State.nextByte (s : State) : Byte × State :=
  match s.mode0Byte with
  | some b => (b, { s with mode0Byte := none })
  | none =>
    let m := if s.decoder.expectsOpcode then s.opcodeFetch s.pc else s.memRead s.pc
    (m.1, { m.2 with pc := s.pc + 1 })

/-- One turn of the loop of 70 R453. -/
def State.feedNext (s : State) : State × Option Instr :=
  let m := s.nextByte
  let d := m.2.decoder.feed m.1
  ({ m.2 with decoder := d.1 }, d.2)

/-- `FetchDecode`: at most `n` turns. An instruction is 1 to 4 bytes long (30 R101). -/
def fetchDecode : Nat → State → Option (Instr × State)
  | 0, _ => none
  | n + 1, s =>
    match s.feedNext with
    | (t, some i) => some (i, t)
    | (t, none) => fetchDecode n t

/-- Bytes stored at consecutive addresses from `a`, modulo 2^16, whatever the memory map allows. -/
def Memory.place (m : Memory) (a : Word) : List Byte → Memory
  | [] => m
  | b :: rest => Memory.place (m.write a.toNat b) (a + 1) rest

/-- The map, or all RAM where it leaves one of the four bytes at `a` unmapped. -/
def mapFor (m : MemMap) (a : Word) : MemMap :=
  if [a, a + 1, a + 2, a + 3].all (fun k => (m.resolve k).isSome) then m else allRam

/-- The state in which the very next step fetches and runs the instruction of an opcode-table word: its bytes stand at PC,
and nothing keeps the step from fetching (log entry 16). -/
def State.placeWord (s : State) (nbits w : Nat) : State :=
  { s with
    mem := Memory.place s.mem s.pc (wordBytes nbits w)
    cfg := { s.cfg with memMap := mapFor s.cfg.memMap s.pc }
    decoder := Decoder.empty, mode0Byte := none, halted := false, kill := false, stuck := none
    pins := { s.pins with busreqSources := [], resetSources := [], waitSources := [] }
    clock := [], clockEnds := false }

end Sys2Proof.Machine
end

