-- ==== Sys2Proof/Machine/Timing.lean ====
section
/-! DEFINITION. Timing: whether the branch or repetition of an instruction happens, which `Config.extraT` may depend on
(spec 70 R465). -/

namespace Sys2Proof.Machine

/-- True where a conditional form takes its branch or a repeating form repeats, in the state the instruction executes in.
False for every other instruction. -/
def happens (i : Instr) (s : State) : Bool :=
  match i with
  | .djnz _ => s.main.b - 1 != 0
  | .jrCc cc _ => cc.holds s.main.f
  | .retCc cc => cc.holds s.main.f
  | .jpCc cc _ => cc.holds s.main.f
  | .callCc cc _ => cc.holds s.main.f
  | .ldir => s.pair .bc - 1 != 0
  | .cpir => s.pair .bc - 1 != 0 && s.cpDiff != 0
  | .inir => s.main.b - 1 != 0
  | .otir => s.main.b - 1 != 0
  | .lddr => s.pair .bc - 1 != 0
  | .cpdr => s.pair .bc - 1 != 0 && s.cpDiff != 0
  | .indr => s.main.b - 1 != 0
  | .otdr => s.main.b - 1 != 0
  | .nop | .ldRpNn _ _ | .ldAtRrA _ | .incRp _ | .incR _ | .decR _ | .ldRN _ _ | .rlca | .exAfAf | .addHlRp _
  | .ldAAtRr _ | .decRp _ | .rrca | .rla | .jr _ | .rra | .ldAtNnHl _ | .daa | .ldHlAtNn _ | .cpl | .ldAtNnA _
  | .incAtHl | .decAtHl | .ldAtHlN _ | .scf | .ldAAtNn _ | .ccf | .ldRR _ _ | .nopEmpty | .ldAtHlR _ | .halt
  | .addAR _ | .addAAtHl | .adcAR _ | .adcAAtHl | .subR _ | .subAtHl | .sbcAR _ | .sbcAAtHl | .andR _ | .andAtHl
  | .xorR _ | .xorAtHl | .orR _ | .orAtHl | .cpR _ | .cpAtHl | .popRp2 _ | .jp _ | .pushRp2 _ | .addAN _
  | .rst _ | .ret | .prefixCB | .call _ | .adcAN _ | .outNA _ | .subN _ | .exx | .inAN _ | .prefixDD | .sbcAN _
  | .exAtSpHl | .andN _ | .jpHl | .exDeHl | .prefixED | .xorN _ | .di | .orN _ | .ldSpHl | .ei | .prefixFD
  | .cpN _ | .rlcR _ | .rlcAtHl | .rrcR _ | .rrcAtHl | .rlR _ | .rlAtHl | .rrR _ | .rrAtHl | .slaR _ | .slaAtHl
  | .sraR _ | .sraAtHl | .sllR _ | .sllAtHl | .srlR _ | .srlAtHl | .bitR _ _ | .bitAtHl _ | .resR _ _
  | .resAtHl _ | .setR _ _ | .setAtHl _ | .noni | .inRC _ | .outCR _ | .sbcHlRp _ | .ldAtNnRp _ _ | .neg | .retn
  | .im _ | .ldIA | .adcHlRp _ | .ldRpAtNn _ _ | .reti | .ldRA | .ldAI | .ldAR | .rrd | .rld | .inC | .outC0
  | .ldi | .cpi | .ini | .outi | .ldd | .cpd | .ind | .outd | .addXRp _ _ | .ldXNn _ _ | .ldAtNnX _ _ | .incX _
  | .incXHalf _ _ | .decXHalf _ _ | .ldXHalfN _ _ _ | .ldXAtNn _ _ | .decX _ | .incAtXd _ _ | .decAtXd _ _
  | .ldAtXdN _ _ _ | .ldRXHalf _ _ _ | .ldXHalfR _ _ _ | .ldAtXdR _ _ _ | .ldAtXdXHalf _ _ _ | .addAXHalf _ _
  | .addAAtXd _ _ | .adcAXHalf _ _ | .adcAAtXd _ _ | .subXHalf _ _ | .subAtXd _ _ | .sbcAXHalf _ _
  | .sbcAAtXd _ _ | .andXHalf _ _ | .andAtXd _ _ | .xorXHalf _ _ | .xorAtXd _ _ | .orXHalf _ _ | .orAtXd _ _
  | .cpXHalf _ _ | .cpAtXd _ _ | .popX _ | .exAtSpX _ | .pushX _ | .jpX _ | .ldSpX _ | .rlcAlt _ _ _
  | .rlcAtXd _ _ | .rrcAlt _ _ _ | .rrcAtXd _ _ | .rlAlt _ _ _ | .rlAtXd _ _ | .rrAlt _ _ _ | .rrAtXd _ _
  | .slaAlt _ _ _ | .slaAtXd _ _ | .sraAlt _ _ _ | .sraAtXd _ _ | .sllAlt _ _ _ | .sllAtXd _ _ | .srlAlt _ _ _
  | .srlAtXd _ _ | .bitAtXd _ _ _ | .resAlt _ _ _ _ | .resAtXd _ _ _ | .setAlt _ _ _ _ | .setAtXd _ _ _ => false

end Sys2Proof.Machine
end

