-- ==== Sys2Proof/Machine/Run.lean ====
section
/-! DEFINITION. Run: the parts of a step: reset, the halted cycle, one instruction, the interrupt check (spec 70 R450 to
R454; 60 R404). Every bus operation is on the pins where it is done (20 R81). -/

namespace Sys2Proof.Machine

/-- A step's end: the state, or the fault of a phase that never ended (log entry 9). -/
def toOut (s : State) : Out :=
  match s.stuck with
  | none => .next s
  | some f => .fault f

/-! ## Reset, 70 R450 -/

/-- What reset sets after its clock edge; every field not named is unchanged (10 R48). -/
def State.clearForReset (s : State) : State :=
  { s with pc := 0x0000#16, i := 0x00#8, r := 0x00#8, im := .mode0, iff1 := false, halted := false,
           decoder := Decoder.empty, mode0Byte := none, tInstr := 0 }

/-- The one clock of a reset, with the lines deasserted (log entry 11). -/
def Surface.resetClock (s : Surface) : Surface := s.after ((s.publish {}).setKind .other).edge

/-- `ResetSequence`: one clock, then the clearing. -/
def State.resetSequence (s : State) : State := { s with toSurface := s.toSurface.resetClock }.clearForReset

/-! ## Interrupt check, 60 R404 -/

/-- `InterruptCheck`: at most one acknowledge, NMI first (60 R404, R413). -/
def State.interruptCheck (s : State) : State :=
  if s.nmiLatch then s.enterNmi
  else if s.intLatch && s.iff1 then s.enterInt
  else s

/-! ## The step, 70 R452 -/

/-- A step begins: `t_instr <- 0`, and the step's records are empty. -/
def State.beginStep (s : State) : State :=
  { s with tInstr := 0, wave := [], trace := { s.trace with bus := [] } }

/-- The halted cycle, 70 R454: one opcode fetch at PC, discarded, PC unchanged. -/
def State.haltedCycle (s : State) : State := (s.opcodeFetch s.pc).2

/-- Execution of a decoded instruction, from the state after its fetch to the end of the step: its effect, its internal cycles
(log entry 6), the interrupt check. -/
def runInstr (i : Instr) (s : State) : Out :=
  match exec i s with
  | .next t => toOut (t.internal (Config.extraT i (happens i s))).interruptCheck
  | .fault f => .fault f
  | .refused q => .refused q

/-- `Step()`, 70 R452. -/
def runStep (s : State) : Out :=
  if s.kill then .fault .killed
  else
    let s1 := s.beginStep
    if s1.resetLine then toOut s1.resetSequence
    else if s1.halted then toOut s1.haltedCycle.interruptCheck
    else
      match fetchDecode 4 s1 with
      | some (i, s2) => runInstr i s2
      | none => .fault .decodeUnfinished

end Sys2Proof.Machine
end

