-- ==== Sys2Proof/Machine/Step.lean ====
section
/-! DEFINITION. Step: the machine's step and the placing of an instruction for the host's questions. -/

namespace Sys2Proof.Machine

/-- One step of the machine (spec 70 R452). -/
def step (s : State) : Host.Outcome State Fault Refusal := runStep s

/-- The state whose very next step runs the instruction of an opcode-table word (log entry 16). -/
def State.withFetchWord (s : State) (nbits w : Nat) : State := s.placeWord nbits w

end Sys2Proof.Machine
end

