-- ==== Sys2Proof/Safety.lean ====
section
/-! DEFINITION. Safety: the terms claims are stated in. The formulas of spec 40 R175 and R176 on exact integers, the frame
relation (what a step may change), stores seen through one byte, the invariant of a boundary, and a quiet environment. -/

namespace Sys2Proof

/-! ## The formulas of 40 R175, R176, on exact integers -/

/-- `r = a + b + c`. -/
def Rule.sum {w : Nat} (a b : BitVec w) (c : Bool) : Int := a.toNat + b.toNat + c.toNat

/-- `r = a - b - c`. -/
def Rule.diff {w : Nat} (a b : BitVec w) (c : Bool) : Int := a.toNat - b.toNat - c.toNat

/-- `r mod 2^w`. -/
def Rule.wrap (w : Nat) (r : Int) : BitVec w := BitVec.ofInt w r

/-- S: bit w-1 of `r mod 2^w`. -/
def Rule.sign (w : Nat) (r : Int) : Bool := (Rule.wrap w r).getLsbD (w - 1)

/-- Z: `r mod 2^w = 0`. -/
def Rule.zero (w : Nat) (r : Int) : Bool := decide (r % 2 ^ w = 0)

/-- P: an even number of set bits. -/
def Rule.parity (v : Byte) : Bool := decide (((List.range 8).countP fun k => v.getLsbD k) % 2 = 0)

/-- C and H of an addition; `h` is 4 for 8 bits, 12 for 16. -/
def Rule.addC {w : Nat} (a b : BitVec w) (c : Bool) : Bool := decide (2 ^ w ≤ Rule.sum a b c)
def Rule.addH {w : Nat} (h : Nat) (a b : BitVec w) (c : Bool) : Bool :=
  decide (2 ^ h ≤ a.toNat % 2 ^ h + b.toNat % 2 ^ h + c.toNat)

/-- C and H of a subtraction. -/
def Rule.subC {w : Nat} (a b : BitVec w) (c : Bool) : Bool := decide (Rule.diff a b c < 0)
def Rule.subH {w : Nat} (h : Nat) (a b : BitVec w) (c : Bool) : Bool :=
  decide (((a.toNat % 2 ^ h : Nat) : Int) - (b.toNat % 2 ^ h : Nat) - c.toNat < 0)

/-- V of an addition and of a subtraction: the operands' signs agree (differ) and the result's sign is not a's. -/
def Rule.addV {w : Nat} (a b : BitVec w) (c : Bool) : Bool :=
  decide (a.getLsbD (w - 1) = b.getLsbD (w - 1) ∧ Rule.sign w (Rule.sum a b c) ≠ a.getLsbD (w - 1))
def Rule.subV {w : Nat} (a b : BitVec w) (c : Bool) : Bool :=
  decide (a.getLsbD (w - 1) ≠ b.getLsbD (w - 1) ∧ Rule.sign w (Rule.diff a b c) ≠ a.getLsbD (w - 1))

/-! ## The functions of 44 R290: result and carry-out -/

def Rule.rlc (v : Byte) (_c : Bool) : Byte × Bool := (v.rotateLeft 1, v.getLsbD 7)
def Rule.rrc (v : Byte) (_c : Bool) : Byte × Bool := (v.rotateRight 1, v.getLsbD 0)
def Rule.rl (v : Byte) (c : Bool) : Byte × Bool := ((v <<< 1) ||| (if c then 0x01#8 else 0), v.getLsbD 7)
def Rule.rr (v : Byte) (c : Bool) : Byte × Bool := ((v >>> 1) ||| (if c then 0x80#8 else 0), v.getLsbD 0)
def Rule.sla (v : Byte) (_c : Bool) : Byte × Bool := (v <<< 1, v.getLsbD 7)
def Rule.sra (v : Byte) (_c : Bool) : Byte × Bool := (v.sshiftRight 1, v.getLsbD 0)
def Rule.sll (v : Byte) (_c : Bool) : Byte × Bool := ((v <<< 1) ||| 0x01#8, v.getLsbD 7)
def Rule.srl (v : Byte) (_c : Bool) : Byte × Bool := (v >>> 1, v.getLsbD 0)

end Sys2Proof

namespace Sys2Proof.Machine

/-! ## Frames -/

/-- The parts of the state that a step may write. `timing` is what clock edges alone change: the lines, the M-cycle kind,
both counters and the record of edges. `ops` is the record of bus operations; `bus` is that record and the whole signal
surface, of which `Bus` then says exactly what the clock edges of the operations made of it. -/
inductive Part where
  | reg (r : Reg8) | flags | alt | idx (x : Idx) | sp | pc | vectorI | refreshR | iff1 | iff2 | im | halted
  | decoder | mem | ops | bus | events | answers | draws
  | nmiLatch | intLatch | intVector | mode0Byte | clock | busreq | reset | wait | timing
  deriving DecidableEq, Repr

/-- `t` with one part as it is in `s`. -/
def Part.restore (s t : State) : Part → State
  | .reg r => t.setReg r (s.reg r)
  | .flags => { t with main := { t.main with f := s.main.f } }
  | .alt => { t with alt := s.alt }
  | .idx x => t.setIdx x (s.idx x)
  | .sp => { t with sp := s.sp }
  | .pc => { t with pc := s.pc }
  | .vectorI => { t with i := s.i }
  | .refreshR => { t with r := s.r }
  | .iff1 => { t with iff1 := s.iff1 }
  | .iff2 => { t with iff2 := s.iff2 }
  | .im => { t with im := s.im }
  | .halted => { t with halted := s.halted }
  | .decoder => { t with decoder := s.decoder }
  | .mem => { t with mem := s.mem }
  | .ops => { t with trace := { t.trace with bus := s.trace.bus } }
  | .bus => { t with toSurface := s.toSurface, trace := { t.trace with bus := s.trace.bus } }
  | .events => { t with trace := { t.trace with events := s.trace.events } }
  | .answers => { t with portAnswers := s.portAnswers }
  | .draws => { t with draws := s.draws }
  | .nmiLatch => { t with nmiLatch := s.nmiLatch }
  | .intLatch => { t with intLatch := s.intLatch }
  | .intVector => { t with intVector := s.intVector }
  | .mode0Byte => { t with mode0Byte := s.mode0Byte }
  | .clock => { t with clock := s.clock }
  | .busreq => { t with pins := { t.pins with busreqSources := s.pins.busreqSources } }
  | .reset => { t with pins := { t.pins with resetSources := s.pins.resetSources } }
  | .wait => { t with pins := { t.pins with waitSources := s.pins.waitSources } }
  | .timing =>
    { t with
      pins := { t.pins with lines := s.pins.lines, mcycle := s.pins.mcycle }
      tTotal := s.tTotal, tInstr := s.tInstr, wave := s.wave }

/-- The frame: with the parts `ps` put back, `t` is `s`. So every other part of the state is unchanged. -/
def SameBut (ps : List Part) (s t : State) : Prop := ps.foldl (fun u p => Part.restore s u p) t = s

/-- The parts a pair is made of (10 R22). -/
def pairParts : Rp → List Part
  | .bc => [.reg .b, .reg .c]
  | .de => [.reg .d, .reg .e]
  | .hl => [.reg .h, .reg .l]
  | .sp => [.sp]

def pair2Parts : Rp2 → List Part
  | .bc => [.reg .b, .reg .c]
  | .de => [.reg .d, .reg .e]
  | .hl => [.reg .h, .reg .l]
  | .af => [.reg .a, .flags]

/-! ## What an instruction does -/

/-- The instruction answers a next state, with `P` of it. `s` is the state it executes in: PC is the address after its last
byte (40 R181). -/
def Completes (i : Instr) (s : State) (P : State → Prop) : Prop := ∃ t, exec i s = .next t ∧ P t

/-- The bytes decode to the instruction, whatever follows them. -/
def Decodes (bytes : List Byte) (i : Instr) : Prop := ∀ rest, decode (bytes ++ rest) = .ok (i, rest)

/-- A byte of memory that a write can change: mapped and not read-only (20 R60, R61). -/
def State.writable (s : State) (a : Word) : Bool := (s.cfg.memMap.resolve a).any (fun q => !q.readOnly)

/-- One byte is stored at `a`: every other address reads as before, and so does `a` where no write can change it. -/
def StoresByte (s t : State) (a : Word) (v : Byte) : Prop :=
  ∀ k, t.peek k = if k = a ∧ s.writable a then v else s.peek k

/-- Two bytes are stored, the low one at `a` and the high one at `a + 1` modulo 2^16. -/
def StoresWord (s t : State) (a v : Word) : Prop :=
  ∀ k, t.peek k =
    if k = a ∧ s.writable a then loByte v
    else if k = a + 1 ∧ s.writable (a + 1) then hiByte v
    else s.peek k

/-- The bus operations done, in order (20 R71). -/
def Ops (s t : State) (ops : List BusOp) : Prop := t.trace.bus = s.trace.bus ++ ops

/-- The bus operations done, in order, and the surface is what they, one after the other, make of it. -/
def Bus (s t : State) (ops : List BusOp) : Prop := Ops s t ops ∧ t.toSurface = s.toSurface.operations ops

/-- A destination in memory takes `v`: the operand pre-read of 40 R172, then the write of R180, and nothing else changes
but the parts `ps`. -/
def Rewrites (s : State) (a : Word) (v : Byte) (ps : List Part) (t : State) : Prop :=
  StoresByte s t a v ∧ Bus s t [.readMemory a (s.peek a), .writeMemory a v] ∧ SameBut (.mem :: .bus :: ps) s t

/-- A word is pushed (41 R214): two bytes below SP, the high one first. -/
def Pushes (s t : State) (v : Word) : Prop :=
  t.sp = s.sp - 2 ∧ StoresWord s t (s.sp - 2) v ∧
    Bus s t [.writeMemory (s.sp - 1) (hiByte v), .writeMemory (s.sp - 2) (loByte v)]

/-- Two bytes are popped (41 R214), the low one first. The word is `s.peek16 s.sp`. -/
def Pops (s t : State) : Prop :=
  t.sp = s.sp + 2 ∧ Bus s t [.readMemory s.sp (s.peek s.sp), .readMemory (s.sp + 1) (s.peek (s.sp + 1))]

/-- The word at an address, low byte first (00 R10). -/
def State.peek16 (s : State) (a : Word) : Word := joinBytes (s.peek (a + 1)) (s.peek a)

/-- S, Z, H, PV, N, C of a flag register. -/
def FlagsAre (f : Flags) (s z h pv n c : Bool) : Prop :=
  f.s = s ∧ f.z = z ∧ f.h = h ∧ f.pv = pv ∧ f.n = n ∧ f.c = c

/-- F5 and F3 under `UNDOC_F53 = z80` (40 R177). Under `draw` they are free and nothing is said of them. -/
def UndocAre (s t : State) (v5 v3 : Bool) : Prop :=
  s.cfg.undocF53 = .z80 → t.main.f.f5 = v5 ∧ t.main.f.f3 = v3

/-- S and PV under `UNDOC_FLAGS = z80` (40 R178). Under `draw` they are free and nothing is said of them. -/
def UndocSPv (s t : State) (vs vpv : Bool) : Prop :=
  s.cfg.undocFlags = .z80 → t.main.f.s = vs ∧ t.main.f.pv = vpv

/-- S, Z and PV from a byte, with the given H, N and C (40 R175). -/
def LogicFlags (f : Flags) (r : Byte) (h n c : Bool) : Prop :=
  FlagsAre f (r.getLsbD 7) (decide (r = 0)) h (Rule.parity r) n c

/-- The flags of a CB rotate or shift with result and carry-out `o` (44 R295). -/
def RotFlags (s t : State) (o : Byte × Bool) : Prop :=
  LogicFlags t.main.f o.1 false false o.2 ∧ UndocAre s t (o.1.getLsbD 5) (o.1.getLsbD 3)

/-- The five forms of an 8-bit ALU operation (43): the encoding of each with the table index `y`, and its effect `P`, in the
state it executes in, on the operand and the next state. Memory forms read the operand once. -/
def AluForms (y : Nat) (r : Reg8 → Instr) (half : Idx → Half → Instr) (atHl : Instr) (atXd : Idx → Byte → Instr)
    (n : Byte → Instr) (P : State → Byte → State → Prop) : Prop :=
  (∀ q, Decodes [opXYZ 2 y q.code] (r q)) ∧
  (∀ (x : Idx) (h : Half), Decodes [x.prefixByte, opXYZ 2 y h.code] (half x h)) ∧
  Decodes [opXYZ 2 y 6] atHl ∧
  (∀ (x : Idx) d, Decodes [x.prefixByte, opXYZ 2 y 6, d] (atXd x d)) ∧
  (∀ v, Decodes [opXYZ 3 y 6, v] (n v)) ∧
  ∀ s : State,
    (∀ q, Completes (r q) s fun t => P s (s.reg q) t ∧ Bus s t []) ∧
    (∀ x h, Completes (half x h) s fun t => P s (s.half x h) t ∧ Bus s t []) ∧
    (Completes atHl s fun t => P s (s.peek s.hl) t ∧ Bus s t [.readMemory s.hl (s.peek s.hl)]) ∧
    (∀ x d, Completes (atXd x d) s fun t =>
      P s (s.peek (s.ea x d)) t ∧ Bus s t [.readMemory (s.ea x d) (s.peek (s.ea x d))]) ∧
    ∀ v, Completes (n v) s fun t => P s v t ∧ Bus s t []

/-- What a CB rotate or shift does to a register and to (HL), with its encoding (44 R295 to R302). -/
def RotForms (y : Nat) (r : Reg8 → Instr) (atHl : Instr) (f : Byte → Bool → Byte × Bool) : Prop :=
  (∀ q, Decodes [0xCB#8, opXYZ 0 y q.code] (r q)) ∧ Decodes [0xCB#8, opXYZ 0 y 6] atHl ∧
  ∀ s : State,
    (∀ q, Completes (r q) s fun t =>
      t.reg q = (f (s.reg q) s.main.f.c).1 ∧ RotFlags s t (f (s.reg q) s.main.f.c) ∧
        SameBut [.reg q, .flags, .draws] s t) ∧
    Completes atHl s fun t =>
      Rewrites s s.hl (f (s.peek s.hl) s.main.f.c).1 [.flags, .draws] t ∧ RotFlags s t (f (s.peek s.hl) s.main.f.c)

/-- The same for (X+d) under DDCB/FDCB (44 R306). -/
def RotIndexed (y : Nat) (atXd : Idx → Byte → Instr) (f : Byte → Bool → Byte × Bool) : Prop :=
  (∀ (x : Idx) d, Decodes [x.prefixByte, 0xCB#8, d, opXYZ 0 y 6] (atXd x d)) ∧
  ∀ (s : State) x d, Completes (atXd x d) s fun t =>
    Rewrites s (s.ea x d) (f (s.peek (s.ea x d)) s.main.f.c).1 [.flags, .draws] t ∧
      RotFlags s t (f (s.peek (s.ea x d)) s.main.f.c)

/-- A register-copy rotate (44 R307): memory and the register take the result. -/
def RotCopies (y : Nat) (alt : Idx → Byte → Reg8 → Instr) (f : Byte → Bool → Byte × Bool) : Prop :=
  (∀ (x : Idx) d q, Decodes [x.prefixByte, 0xCB#8, d, opXYZ 0 y q.code] (alt x d q)) ∧
  ∀ (s : State) x d q, Completes (alt x d q) s fun t =>
    Rewrites s (s.ea x d) (f (s.peek (s.ea x d)) s.main.f.c).1 [.reg q, .flags, .draws] t ∧
      t.reg q = (f (s.peek (s.ea x d)) s.main.f.c).1 ∧ RotFlags s t (f (s.peek (s.ea x d)) s.main.f.c)

/-! ## Fetching -/

/-- The four bytes the decoder is given next, if it takes them all: the mode-0 byte where one waits (60 R412), then the bytes
at PC. -/
def State.upcoming (s : State) : List Byte :=
  match s.mode0Byte with
  | some b => [b, s.peek s.pc, s.peek (s.pc + 1), s.peek (s.pc + 2)]
  | none => [s.peek s.pc, s.peek (s.pc + 1), s.peek (s.pc + 2), s.peek (s.pc + 3)]

/-- How many bytes of an instruction come from memory: its length, less the mode-0 byte. `left` is what the decoder left of
the four upcoming bytes. -/
def State.fromMemory (s : State) (left : List Byte) : Nat := 4 - left.length - s.mode0Byte.toList.length

/-- How many of them are fetched by opcode fetches (30 R121): a first prefix and the byte after it, or the opcode alone. -/
def State.opcodeFetches (s : State) : Nat :=
  (if (s.upcoming.head?.bind prefixOf).isSome then 2 else 1) - s.mode0Byte.toList.length

/-- `f` is `s` after the fetch of an instruction (70 R453): PC past its bytes, one R increment for each opcode fetch, the bus
operations at consecutive addresses and what they do to the surface, the mode-0 byte used up. -/
def Fetched (s : State) (left : List Byte) (f : State) : Prop :=
  f.pc = s.pc + BitVec.ofNat 16 (s.fromMemory left) ∧ f.r = bumpR^[s.opcodeFetches] s.r ∧ f.mode0Byte = none ∧
    Bus s f ((List.range (s.fromMemory left)).map fun k =>
      if k < s.opcodeFetches then .fetchOpcode (s.pc + BitVec.ofNat 16 k) (s.peek (s.pc + BitVec.ofNat 16 k))
      else .readMemory (s.pc + BitVec.ofNat 16 k) (s.peek (s.pc + BitVec.ofNat 16 k)))

/-! ## Which instructions write what -/

/-- The four prefix rows of the opcode table. -/
def isPrefixRow (i : Instr) : Bool :=
  i == .prefixCB || i == .prefixDD || i == .prefixED || i == .prefixFD

/-- The instructions that leave F as it is: the last row of the table of 40 R183, the RES and SET row and the INC rr and
DEC rr row. -/
def keepsF : Instr → Bool
  | .nop | .noni | .nopEmpty | .prefixCB | .prefixDD | .prefixED | .prefixFD | .halt | .di | .ei | .im _ | .ldIA | .ldRA
  | .ldRR _ _ | .ldRN _ _ | .ldRXHalf _ _ _ | .ldXHalfR _ _ _ | .ldXHalfN _ _ _ | .ldAtHlR _ | .ldAtXdR _ _ _
  | .ldAtXdXHalf _ _ _ | .ldAtHlN _ | .ldAtXdN _ _ _ | .ldAtRrA _ | .ldAAtRr _ | .ldAtNnA _ | .ldAAtNn _
  | .ldRpNn _ _ | .ldXNn _ _ | .ldHlAtNn _ | .ldXAtNn _ _ | .ldRpAtNn _ _ | .ldAtNnHl _ | .ldAtNnX _ _
  | .ldAtNnRp _ _ | .ldSpHl | .ldSpX _ | .pushRp2 _ | .pushX _ | .popX _ | .exDeHl | .exx | .exAtSpHl | .exAtSpX _
  | .incRp _ | .decRp _ | .incX _ | .decX _ | .resR _ _ | .resAtHl _ | .resAtXd _ _ _ | .resAlt _ _ _ _
  | .setR _ _ | .setAtHl _ | .setAtXd _ _ _ | .setAlt _ _ _ _ | .jp _ | .jpCc _ _ | .jpHl | .jpX _ | .jr _
  | .jrCc _ _ | .djnz _ | .call _ | .callCc _ _ | .ret | .retCc _ | .retn | .reti | .rst _ | .inAN _ | .outNA _
  | .outCR _ | .outC0 => true
  | .popRp2 rp => decide (rp ≠ .af)
  | _ => false

/-- The instructions that reach the I/O space (20 R64): IN, OUT and the block I/O forms. -/
def reachesPorts : Instr → Bool
  | .inAN _ | .inRC _ | .inC | .outNA _ | .outCR _ | .outC0 | .ini | .ind | .inir | .indr | .outi | .outd | .otir
  | .otdr => true
  | _ => false

/-! ## The machine at a boundary -/

/-- What holds between two steps: the memory is in its canonical form, the decoder is empty (10 R38), no line is asserted
(10 R35), no kill is pending, and no phase has gone on for ever. -/
def Boundary (s : State) : Prop :=
  s.mem.wf ∧ s.decoder = Decoder.empty ∧ s.pins.lines = {} ∧ s.kill = false ∧ s.stuck = none

/-- `s` with the signals of the next `n` listed edges arrived, and nothing else done. -/
def State.seen (s : State) (n : Nat) : State := s.signals (s.clock.take n).flatten

/-- A quiet environment: the clock runs on, no signal is to come, BUSREQ, RESET and WAIT are deasserted, no kill, and no
phase has gone on for ever. -/
def Quiet (s : State) : Prop :=
  s.clock = [] ∧ s.clockEnds = false ∧ s.pins.busreqSources = [] ∧ s.pins.resetSources = [] ∧
    s.pins.waitSources = [] ∧ s.kill = false ∧ s.stuck = none

/-- An environment that only makes requests: `signal_int`, `signal_nmi` and a byte for `int_vector` may arrive at any
coming edge, and it is quiet but for them. -/
def RequestsOnly (s : State) : Prop :=
  (∀ e ∈ s.clock, ∀ x ∈ e, x = .int ∨ x = .nmi ∨ ∃ v, x = .vector v) ∧ s.clockEnds = false ∧
    s.pins.busreqSources = [] ∧ s.pins.resetSources = [] ∧ s.pins.waitSources = [] ∧ s.kill = false ∧ s.stuck = none

end Sys2Proof.Machine
end

