-- ==== Sys2Proof/Certificates/Slice0/Obligations.lean ====
section
/-! DEFINITION. Obligations: the statements for the provers. `s` is the state an instruction executes in: PC is the address
after its last byte (spec 40 R181). `SameBut ps s t` says that every part of the state not in `ps` is unchanged. -/

open Sys2Proof Sys2Proof.Machine

/-! ## Loads, stack, exchanges (spec 41) -/

/-- R201, R202: LD r,r', LD r,XH/XL, LD XH/XL,r, LD r,n, LD XH/XL,n. The registers, the halves and the sources of
LD XH/XL,r (R145) are named: DD 65 takes IXL, DD 6C takes IXH. -/
def Obligations.LoadRegistersAndHalves : Prop :=
  [XSrc.b, .c, .d, .e, .xh, .xl, .a].map XSrc.code = [0, 1, 2, 3, 4, 5, 7] ∧ [Half.hi, .lo].map Half.code = [4, 5] ∧
  (∀ r r' : Reg8, Decodes [opXYZ 1 r.code r'.code] (.ldRR r r')) ∧
  (∀ (x : Idx) (r r' : Reg8), r.notHL = true → r'.notHL = true →
    Decodes [x.prefixByte, opXYZ 1 r.code r'.code] (.ldRR r r')) ∧
  (∀ (r : Reg8) (x : Idx) (h : Half), r.notHL = true →
    Decodes [x.prefixByte, opXYZ 1 r.code h.code] (.ldRXHalf r x h)) ∧
  (∀ (x : Idx) (h : Half) (src : XSrc), Decodes [x.prefixByte, opXYZ 1 h.code src.code] (.ldXHalfR x h src)) ∧
  (∀ (r : Reg8) n, Decodes [opXYZ 0 r.code 6, n] (.ldRN r n)) ∧
  (∀ (x : Idx) (r : Reg8) n, r.notHL = true → Decodes [x.prefixByte, opXYZ 0 r.code 6, n] (.ldRN r n)) ∧
  (∀ (x : Idx) (h : Half) n, Decodes [x.prefixByte, opXYZ 0 h.code 6, n] (.ldXHalfN x h n)) ∧
  Decodes [0xDD#8, 0x65#8] (.ldXHalfR .ix .hi .xl) ∧ Decodes [0xDD#8, 0x6C#8] (.ldXHalfR .ix .lo .xh) ∧
  ∀ s : State,
    [Reg8.a, .b, .c, .d, .e, .h, .l].map s.reg =
      [s.main.a, s.main.b, s.main.c, s.main.d, s.main.e, s.main.h, s.main.l] ∧
    s.idx .ix = s.ix ∧ s.idx .iy = s.iy ∧
    (∀ x, s.half x .hi = hiByte (s.idx x) ∧ s.half x .lo = loByte (s.idx x) ∧
      [XSrc.b, .c, .d, .e, .xh, .xl, .a].map (s.xsrc x) =
        [s.main.b, s.main.c, s.main.d, s.main.e, s.half x .hi, s.half x .lo, s.main.a]) ∧
    (∀ r r', Completes (.ldRR r r') s fun t => t.reg r = s.reg r' ∧ SameBut [.reg r] s t) ∧
    (∀ r n, Completes (.ldRN r n) s fun t => t.reg r = n ∧ SameBut [.reg r] s t) ∧
    (∀ r x h, Completes (.ldRXHalf r x h) s fun t => t.reg r = s.half x h ∧ SameBut [.reg r] s t) ∧
    (∀ x h src, Completes (.ldXHalfR x h src) s fun t =>
      (∀ g, t.half x g = if g = h then s.xsrc x src else s.half x g) ∧ SameBut [.idx x] s t) ∧
    ∀ x h n, Completes (.ldXHalfN x h n) s fun t =>
      (∀ g, t.half x g = if g = h then n else s.half x g) ∧ SameBut [.idx x] s t

/-- R206, R208: LD A,(BC), LD A,(DE), LD A,(nn). -/
def Obligations.LoadAccumulatorFromMemory : Prop :=
  Decodes [0x0A#8] (.ldAAtRr .bc) ∧ Decodes [0x1A#8] (.ldAAtRr .de) ∧
  (∀ x : Idx, Decodes [x.prefixByte, 0x0A#8] (.ldAAtRr .bc) ∧ Decodes [x.prefixByte, 0x1A#8] (.ldAAtRr .de)) ∧
  (∀ lo hi, Decodes [0x3A#8, lo, hi] (.ldAAtNn (joinBytes hi lo))) ∧
  ∀ s : State,
    (∀ rr, rr = .bc ∨ rr = .de → Completes (.ldAAtRr rr) s fun t =>
      t.main.a = s.peek (s.pair rr) ∧ Bus s t [.readMemory (s.pair rr) (s.peek (s.pair rr))] ∧
        SameBut [.reg .a, .bus] s t) ∧
    ∀ nn, Completes (.ldAAtNn nn) s fun t =>
      t.main.a = s.peek nn ∧ Bus s t [.readMemory nn (s.peek nn)] ∧ SameBut [.reg .a, .bus] s t

/-- R203, R204, R207, R209: LD (HL),r, LD (X+d),r, LD (X+d),XH/XL, LD (HL),n, LD (X+d),n, LD (BC),A, LD (DE),A, LD (nn),A. With
the effective address of 40 R171, which the other statements call `s.ea x d`, and (HL), `s.hl`. -/
def Obligations.StoreByteInstructions : Prop :=
  (∀ r : Reg8, Decodes [opXYZ 1 6 r.code] (.ldAtHlR r)) ∧
  (∀ (x : Idx) d (r : Reg8), r.notHL = true → Decodes [x.prefixByte, opXYZ 1 6 r.code, d] (.ldAtXdR x d r)) ∧
  (∀ (x : Idx) d (h : Half), Decodes [x.prefixByte, opXYZ 1 6 h.code, d] (.ldAtXdXHalf x d h)) ∧
  (∀ n, Decodes [0x36#8, n] (.ldAtHlN n)) ∧
  (∀ (x : Idx) d n, Decodes [x.prefixByte, 0x36#8, d, n] (.ldAtXdN x d n)) ∧
  Decodes [0x02#8] (.ldAtRrA .bc) ∧ Decodes [0x12#8] (.ldAtRrA .de) ∧
  (∀ lo hi, Decodes [0x32#8, lo, hi] (.ldAtNnA (joinBytes hi lo))) ∧
  ∀ s : State,
    s.hl = s.pair .hl ∧ (∀ x d, s.ea x d = s.idx x + sext16 d ∧ sext16 d = BitVec.ofInt 16 d.toInt) ∧
    (∀ r, Completes (.ldAtHlR r) s (Rewrites s s.hl (s.reg r) [])) ∧
    (∀ x d r, Completes (.ldAtXdR x d r) s (Rewrites s (s.idx x + sext16 d) (s.reg r) [])) ∧
    (∀ x d h, Completes (.ldAtXdXHalf x d h) s (Rewrites s (s.idx x + sext16 d) (s.half x h) [])) ∧
    (∀ n, Completes (.ldAtHlN n) s (Rewrites s s.hl n [])) ∧
    (∀ x d n, Completes (.ldAtXdN x d n) s (Rewrites s (s.idx x + sext16 d) n [])) ∧
    (∀ rr, rr = .bc ∨ rr = .de → Completes (.ldAtRrA rr) s (Rewrites s (s.pair rr) s.main.a [])) ∧
    ∀ nn, Completes (.ldAtNnA nn) s (Rewrites s nn s.main.a [])

/-- R210, R222, and 10 R22: LD rp,nn, LD X,nn, LD SP,HL, LD SP,X. The high byte of a pair is its first-named register. -/
def Obligations.LoadPairsAndStackPointer : Prop :=
  (∀ (rp : Rp) lo hi, Decodes [opXPQZ 0 rp.code 0 1, lo, hi] (.ldRpNn rp (joinBytes hi lo))) ∧
  (∀ (x : Idx) lo hi, Decodes [x.prefixByte, 0x21#8, lo, hi] (.ldXNn x (joinBytes hi lo))) ∧
  Decodes [0xF9#8] .ldSpHl ∧ (∀ x : Idx, Decodes [x.prefixByte, 0xF9#8] (.ldSpX x)) ∧
  (∀ hi lo, (joinBytes hi lo).toNat = 256 * hi.toNat + lo.toNat) ∧
  (∀ w, (hiByte w).toNat = w.toNat / 256 ∧ (loByte w).toNat = w.toNat % 256) ∧
  ∀ s : State,
    s.pair .bc = joinBytes s.main.b s.main.c ∧ s.pair .de = joinBytes s.main.d s.main.e ∧
    s.pair .hl = joinBytes s.main.h s.main.l ∧ s.pair .sp = s.sp ∧ s.hl = s.pair .hl ∧
    (∀ x, s.half x .hi = hiByte (s.idx x) ∧ s.half x .lo = loByte (s.idx x)) ∧
    (∀ rp nn, Completes (.ldRpNn rp nn) s fun t => t.pair rp = nn ∧ SameBut (pairParts rp) s t) ∧
    (∀ hi lo, (Completes (.ldRpNn .bc (joinBytes hi lo)) s fun t => t.main.b = hi ∧ t.main.c = lo) ∧
      (Completes (.ldRpNn .de (joinBytes hi lo)) s fun t => t.main.d = hi ∧ t.main.e = lo) ∧
      Completes (.ldRpNn .hl (joinBytes hi lo)) s fun t => t.main.h = hi ∧ t.main.l = lo) ∧
    (∀ x nn, Completes (.ldXNn x nn) s fun t => t.idx x = nn ∧ SameBut [.idx x] s t) ∧
    (Completes .ldSpHl s fun t => t.sp = s.hl ∧ SameBut [.sp] s t) ∧
    ∀ x, Completes (.ldSpX x) s fun t => t.sp = s.idx x ∧ SameBut [.sp] s t

/-- R211, R221: LD HL,(nn), LD X,(nn), LD rp,(nn). -/
def Obligations.LoadWordFromMemory : Prop :=
  (∀ lo hi, Decodes [0x2A#8, lo, hi] (.ldHlAtNn (joinBytes hi lo))) ∧
  (∀ (x : Idx) lo hi, Decodes [x.prefixByte, 0x2A#8, lo, hi] (.ldXAtNn x (joinBytes hi lo))) ∧
  (∀ (rp : Rp) lo hi, Decodes [0xED#8, opXPQZ 1 rp.code 1 3, lo, hi] (.ldRpAtNn rp (joinBytes hi lo))) ∧
  ∀ (s : State) nn,
    let word := joinBytes (s.peek (nn + 1)) (s.peek nn)
    let reads := [BusOp.readMemory nn (s.peek nn), .readMemory (nn + 1) (s.peek (nn + 1))]
    (Completes (.ldHlAtNn nn) s fun t =>
      t.pair .hl = word ∧ Bus s t reads ∧ SameBut (.bus :: pairParts .hl) s t) ∧
    (∀ x, Completes (.ldXAtNn x nn) s fun t => t.idx x = word ∧ Bus s t reads ∧ SameBut [.bus, .idx x] s t) ∧
    ∀ rp, Completes (.ldRpAtNn rp nn) s fun t =>
      t.pair rp = word ∧ Bus s t reads ∧ SameBut (.bus :: pairParts rp) s t

/-- R212, R213: LD (nn),HL, LD (nn),X, LD (nn),rp. -/
def Obligations.StoreWordInstructions : Prop :=
  (∀ lo hi, Decodes [0x22#8, lo, hi] (.ldAtNnHl (joinBytes hi lo))) ∧
  (∀ (x : Idx) lo hi, Decodes [x.prefixByte, 0x22#8, lo, hi] (.ldAtNnX x (joinBytes hi lo))) ∧
  (∀ (rp : Rp) lo hi, Decodes [0xED#8, opXPQZ 1 rp.code 0 3, lo, hi] (.ldAtNnRp rp (joinBytes hi lo))) ∧
  ∀ (s : State) nn,
    let effect (v : Word) (t : State) : Prop :=
      StoresWord s t nn v ∧
        Bus s t [.readMemory nn (s.peek nn), .writeMemory nn (loByte v), .writeMemory (nn + 1) (hiByte v)] ∧
        SameBut [.mem, .bus] s t
    Completes (.ldAtNnHl nn) s (effect s.hl) ∧ (∀ x, Completes (.ldAtNnX x nn) s (effect (s.idx x))) ∧
      ∀ rp, Completes (.ldAtNnRp rp nn) s (effect (s.pair rp))

/-- R214 to R216: PUSH rp2, PUSH X, POP rp2, POP X. The low byte of AF is F, its bits at the masks of 10 R28. -/
def Obligations.PushAndPop : Prop :=
  (∀ rp : Rp2, Decodes [opXPQZ 3 rp.code 0 5] (.pushRp2 rp) ∧ Decodes [opXPQZ 3 rp.code 0 1] (.popRp2 rp)) ∧
  (∀ x : Idx, Decodes [x.prefixByte, 0xE5#8] (.pushX x) ∧ Decodes [x.prefixByte, 0xE1#8] (.popX x)) ∧
  ∀ s : State,
    let f := s.main.f
    (∀ c ∈ [(Rp2.bc, Rp.bc), (.de, .de), (.hl, .hl)], s.pair2 c.1 = s.pair c.2) ∧ hiByte (s.pair2 .af) = s.main.a ∧
    (loByte (s.pair2 .af)).toNat =
      0x80 * f.s.toNat + 0x40 * f.z.toNat + 0x20 * f.f5.toNat + 0x10 * f.h.toNat + 0x08 * f.f3.toNat +
        0x04 * f.pv.toNat + 0x02 * f.n.toNat + 0x01 * f.c.toNat ∧
    (∀ rp, Completes (.pushRp2 rp) s fun t => Pushes s t (s.pair2 rp) ∧ SameBut [.sp, .mem, .bus] s t) ∧
    (∀ x, Completes (.pushX x) s fun t => Pushes s t (s.idx x) ∧ SameBut [.sp, .mem, .bus] s t) ∧
    (∀ rp, Completes (.popRp2 rp) s fun t =>
      t.pair2 rp = s.peek16 s.sp ∧ Pops s t ∧ SameBut (.sp :: .bus :: pair2Parts rp) s t) ∧
    ∀ x, Completes (.popX x) s fun t => t.idx x = s.peek16 s.sp ∧ Pops s t ∧ SameBut [.sp, .bus, .idx x] s t

/-- R217, R218, R220: EX DE,HL, EX AF,AF', EXX. The other registers of both banks are unchanged. -/
def Obligations.ExchangeInstructions : Prop :=
  Decodes [0xEB#8] .exDeHl ∧ (∀ x : Idx, Decodes [x.prefixByte, 0xEB#8] .exDeHl) ∧
  Decodes [0x08#8] .exAfAf ∧ Decodes [0xD9#8] .exx ∧ (∀ x : Idx, Decodes [x.prefixByte, 0xD9#8] .exx) ∧
  ∀ s : State,
    (Completes .exDeHl s fun t =>
      t.pair .de = s.pair .hl ∧ t.pair .hl = s.pair .de ∧ SameBut (pairParts .de ++ pairParts .hl) s t) ∧
    (Completes .exAfAf s fun t =>
      t.main.a = s.alt.a ∧ t.main.f = s.alt.f ∧ t.alt = { s.alt with a := s.main.a, f := s.main.f } ∧
        SameBut [.reg .a, .flags, .alt] s t) ∧
    Completes .exx s fun t =>
      (∀ r, r ≠ .a → t.main.get r = s.alt.get r ∧ t.alt.get r = s.main.get r) ∧
        t.alt.a = s.alt.a ∧ t.alt.f = s.alt.f ∧
        SameBut [.reg .b, .reg .c, .reg .d, .reg .e, .reg .h, .reg .l, .alt] s t

/-- R219: EX (SP),HL and EX (SP),X. SP is unchanged. -/
def Obligations.ExchangeStackTop : Prop :=
  Decodes [0xE3#8] .exAtSpHl ∧ (∀ x : Idx, Decodes [x.prefixByte, 0xE3#8] (.exAtSpX x)) ∧
  ∀ s : State,
    let accesses (v : Word) : List BusOp :=
      [.readMemory s.sp (s.peek s.sp), .readMemory (s.sp + 1) (s.peek (s.sp + 1)),
        .writeMemory s.sp (loByte v), .writeMemory (s.sp + 1) (hiByte v)]
    (Completes .exAtSpHl s fun t =>
      t.pair .hl = s.peek16 s.sp ∧ StoresWord s t s.sp s.hl ∧ Bus s t (accesses s.hl) ∧
        SameBut (.mem :: .bus :: pairParts .hl) s t) ∧
    ∀ x, Completes (.exAtSpX x) s fun t =>
      t.idx x = s.peek16 s.sp ∧ StoresWord s t s.sp (s.idx x) ∧ Bus s t (accesses (s.idx x)) ∧
        SameBut [.mem, .bus, .idx x] s t

/-! ## Block instructions (spec 42) -/

/-- R242 to R245: one unit of LDI, LDD, LDIR, LDDR, and the rewind of the repeating forms. -/
def Obligations.BlockTransferUnit : Prop :=
  Decodes [0xED#8, 0xA0#8] .ldi ∧ Decodes [0xED#8, 0xA8#8] .ldd ∧
  Decodes [0xED#8, 0xB0#8] .ldir ∧ Decodes [0xED#8, 0xB8#8] .lddr ∧
  ∀ s : State,
    let m := s.peek s.hl
    let unit (step : Word) (again : Bool) (t : State) : Prop :=
      StoresByte s t (s.pair .de) m ∧
      Bus s t [.readMemory s.hl m, .writeMemory (s.pair .de) m] ∧
      t.pair .hl = s.pair .hl + step ∧ t.pair .de = s.pair .de + step ∧ t.pair .bc = s.pair .bc - 1 ∧
      FlagsAre t.main.f s.main.f.s s.main.f.z false (decide (t.pair .bc ≠ 0)) false s.main.f.c ∧
      UndocAre s t ((m + s.main.a).getLsbD 1) ((m + s.main.a).getLsbD 3) ∧
      t.pc = (if again = true ∧ t.pair .bc ≠ 0 then s.pc - 2 else s.pc) ∧
      SameBut ([.mem, .bus, .flags, .draws, .pc] ++ pairParts .hl ++ pairParts .de ++ pairParts .bc) s t
    Completes .ldi s (unit 1 false) ∧ Completes .ldd s (unit (-1) false) ∧
      Completes .ldir s (unit 1 true) ∧ Completes .lddr s (unit (-1) true)

/-- R246 to R249, with R241's half-carry: one unit of CPI, CPD, CPIR, CPDR. -/
def Obligations.BlockCompareUnit : Prop :=
  Decodes [0xED#8, 0xA1#8] .cpi ∧ Decodes [0xED#8, 0xA9#8] .cpd ∧
  Decodes [0xED#8, 0xB1#8] .cpir ∧ Decodes [0xED#8, 0xB9#8] .cpdr ∧
  ∀ s : State,
    let m := s.peek s.hl
    let r := Rule.diff s.main.a m false
    let unit (step : Word) (again : Bool) (t : State) : Prop :=
      Bus s t [.readMemory s.hl m] ∧
      t.pair .hl = s.pair .hl + step ∧ t.pair .bc = s.pair .bc - 1 ∧
      FlagsAre t.main.f (Rule.sign 8 r) (Rule.zero 8 r) (decide ((s.main.a &&& m) &&& 0x10#8 ≠ 0))
        (decide (t.pair .bc ≠ 0)) true s.main.f.c ∧
      (t.main.f.z = true ↔ s.main.a = m) ∧
      UndocAre s t ((Rule.wrap 8 r).getLsbD 5) ((Rule.wrap 8 r).getLsbD 3) ∧
      t.pc = (if again = true ∧ t.pair .bc ≠ 0 ∧ s.main.a ≠ m then s.pc - 2 else s.pc) ∧
      SameBut ([.bus, .flags, .draws, .pc] ++ pairParts .hl ++ pairParts .bc) s t
    Completes .cpi s (unit 1 false) ∧ Completes .cpd s (unit (-1) false) ∧
      Completes .cpir s (unit 1 true) ∧ Completes .cpdr s (unit (-1) true)

/-- R250 to R253, with R241's half-carry and R65's port: one unit of INI, IND, INIR, INDR. The byte is the device's answer;
`s.portByte` is the model's oracle for it (the model's choice, log entry 5), 0 for an unmapped port. That H is fixed also
under `UNDOC_FLAGS = draw` is the model's choice (log entry 26). -/
def Obligations.BlockInputUnit : Prop :=
  Decodes [0xED#8, 0xA2#8] .ini ∧ Decodes [0xED#8, 0xAA#8] .ind ∧
  Decodes [0xED#8, 0xB2#8] .inir ∧ Decodes [0xED#8, 0xBA#8] .indr ∧
  ∀ s : State,
    let port := joinBytes s.main.b s.main.c
    let m := s.portByte port
    let b := s.main.b - 1
    let unit (step : Word) (again : Bool) (t : State) : Prop :=
      StoresByte s t s.hl m ∧ Bus s t [.readIo port m, .writeMemory s.hl m] ∧
      t.trace.events = s.trace.events ++ [.read port m] ∧
      t.portAnswers = (if s.portMapped port then s.portAnswers.tail else s.portAnswers) ∧
      t.pair .hl = s.pair .hl + step ∧ t.main.b = b ∧
      t.main.f.z = decide (b = 0) ∧ t.main.f.h = decide ((m &&& s.main.b) &&& 0x10#8 ≠ 0) ∧ t.main.f.n = true ∧
      t.main.f.c = s.main.f.c ∧ UndocSPv s t (b.getLsbD 7) false ∧ UndocAre s t (b.getLsbD 5) (b.getLsbD 3) ∧
      t.pc = (if again = true ∧ b ≠ 0 then s.pc - 2 else s.pc) ∧
      SameBut ([.mem, .bus, .events, .answers, .flags, .draws, .pc, .reg .b] ++ pairParts .hl) s t
    Completes .ini s (unit 1 false) ∧ Completes .ind s (unit (-1) false) ∧
      Completes .inir s (unit 1 true) ∧ Completes .indr s (unit (-1) true)

/-- R254 to R257, with R241's half-carry and R65's port: one unit of OUTI, OUTD, OTIR, OTDR. The port has the decremented B.
That H is fixed also under `UNDOC_FLAGS = draw` is the model's choice (log entry 26). -/
def Obligations.BlockOutputUnit : Prop :=
  Decodes [0xED#8, 0xA3#8] .outi ∧ Decodes [0xED#8, 0xAB#8] .outd ∧
  Decodes [0xED#8, 0xB3#8] .otir ∧ Decodes [0xED#8, 0xBB#8] .otdr ∧
  ∀ s : State,
    let m := s.peek s.hl
    let b := s.main.b - 1
    let port := joinBytes b s.main.c
    let unit (step : Word) (again : Bool) (t : State) : Prop :=
      Bus s t [.readMemory s.hl m, .writeIo port m] ∧ t.trace.events = s.trace.events ++ [.write port m] ∧
      t.pair .hl = s.pair .hl + step ∧ t.main.b = b ∧
      t.main.f.z = decide (b = 0) ∧ t.main.f.h = decide ((m &&& s.main.b) &&& 0x10#8 ≠ 0) ∧ t.main.f.n = true ∧
      t.main.f.c = s.main.f.c ∧ UndocSPv s t (b.getLsbD 7) false ∧ UndocAre s t (b.getLsbD 5) (b.getLsbD 3) ∧
      t.pc = (if again = true ∧ b ≠ 0 then s.pc - 2 else s.pc) ∧
      SameBut ([.bus, .events, .flags, .draws, .pc, .reg .b] ++ pairParts .hl) s t
    Completes .outi s (unit 1 false) ∧ Completes .outd s (unit (-1) false) ∧
      Completes .otir s (unit 1 true) ∧ Completes .otdr s (unit (-1) true)

/-! ## Arithmetic and logic (spec 43) -/

/-- R260, R261: ADD A,s and ADC A,s. -/
def Obligations.AddToAccumulator : Prop :=
  let effect (carry : State → Bool) (s : State) (v : Byte) (t : State) : Prop :=
    let c := carry s
    let a := s.main.a
    let r := Rule.sum a v c
    t.main.a = Rule.wrap 8 r ∧
    FlagsAre t.main.f (Rule.sign 8 r) (Rule.zero 8 r) (Rule.addH 4 a v c) (Rule.addV a v c) false (Rule.addC a v c) ∧
    UndocAre s t ((Rule.wrap 8 r).getLsbD 5) ((Rule.wrap 8 r).getLsbD 3) ∧ SameBut [.reg .a, .flags, .draws, .bus] s t
  AluForms 0 .addAR .addAXHalf .addAAtHl .addAAtXd .addAN (effect fun _ => false) ∧
  AluForms 1 .adcAR .adcAXHalf .adcAAtHl .adcAAtXd .adcAN (effect fun s => s.main.f.c)

/-- R262, R263, R267: SUB s, SBC A,s and CP s. CP writes no A, and its undocumented bits come from the operand. -/
def Obligations.SubtractAndCompare : Prop :=
  let flags (c : Bool) (s : State) (v : Byte) (t : State) : Prop :=
    let a := s.main.a
    let r := Rule.diff a v c
    FlagsAre t.main.f (Rule.sign 8 r) (Rule.zero 8 r) (Rule.subH 4 a v c) (Rule.subV a v c) true (Rule.subC a v c)
  let effect (carry : State → Bool) (s : State) (v : Byte) (t : State) : Prop :=
    let r := Rule.wrap 8 (Rule.diff s.main.a v (carry s))
    t.main.a = r ∧ flags (carry s) s v t ∧ UndocAre s t (r.getLsbD 5) (r.getLsbD 3) ∧
      SameBut [.reg .a, .flags, .draws, .bus] s t
  AluForms 2 .subR .subXHalf .subAtHl .subAtXd .subN (effect fun _ => false) ∧
  AluForms 3 .sbcAR .sbcAXHalf .sbcAAtHl .sbcAAtXd .sbcAN (effect fun s => s.main.f.c) ∧
  AluForms 7 .cpR .cpXHalf .cpAtHl .cpAtXd .cpN fun s v t =>
    flags false s v t ∧ UndocAre s t (v.getLsbD 5) (v.getLsbD 3) ∧ SameBut [.flags, .draws, .bus] s t

/-- R264 to R266: AND s, XOR s, OR s. -/
def Obligations.LogicInstructions : Prop :=
  let effect (op : Byte → Byte → Byte) (h : Bool) (s : State) (v : Byte) (t : State) : Prop :=
    let r := op s.main.a v
    t.main.a = r ∧ LogicFlags t.main.f r h false false ∧ UndocAre s t (r.getLsbD 5) (r.getLsbD 3) ∧
      SameBut [.reg .a, .flags, .draws, .bus] s t
  AluForms 4 .andR .andXHalf .andAtHl .andAtXd .andN (effect (fun a v => a &&& v) true) ∧
  AluForms 5 .xorR .xorXHalf .xorAtHl .xorAtXd .xorN (effect (fun a v => a ^^^ v) false) ∧
  AluForms 6 .orR .orXHalf .orAtHl .orAtXd .orN (effect (fun a v => a ||| v) false)

/-- R268, R269: INC m and DEC m, for a register, XH/XL, (HL) and (X+d). C is unchanged. -/
def Obligations.IncrementDecrementBytes : Prop :=
  (∀ q : Reg8, Decodes [opXYZ 0 q.code 4] (.incR q) ∧ Decodes [opXYZ 0 q.code 5] (.decR q)) ∧
  (∀ (x : Idx) (h : Half), Decodes [x.prefixByte, opXYZ 0 h.code 4] (.incXHalf x h) ∧
    Decodes [x.prefixByte, opXYZ 0 h.code 5] (.decXHalf x h)) ∧
  Decodes [0x34#8] .incAtHl ∧ Decodes [0x35#8] .decAtHl ∧
  (∀ (x : Idx) d, Decodes [x.prefixByte, 0x34#8, d] (.incAtXd x d) ∧
    Decodes [x.prefixByte, 0x35#8, d] (.decAtXd x d)) ∧
  ∀ s : State,
    let inc (v : Byte) (t : State) : Prop :=
      let r := Rule.sum v 1 false
      FlagsAre t.main.f (Rule.sign 8 r) (Rule.zero 8 r) (decide (v &&& 0x0F#8 = 0x0F#8)) (decide (v = 0x7F#8)) false
        s.main.f.c ∧
      UndocAre s t ((Rule.wrap 8 r).getLsbD 5) ((Rule.wrap 8 r).getLsbD 3)
    let dec (v : Byte) (t : State) : Prop :=
      let r := Rule.diff v 1 false
      FlagsAre t.main.f (Rule.sign 8 r) (Rule.zero 8 r) (decide (v &&& 0x0F#8 = 0)) (decide (v = 0x80#8)) true
        s.main.f.c ∧
      UndocAre s t ((Rule.wrap 8 r).getLsbD 5) ((Rule.wrap 8 r).getLsbD 3)
    (∀ q, Completes (.incR q) s fun t =>
      t.reg q = s.reg q + 1 ∧ inc (s.reg q) t ∧ SameBut [.reg q, .flags, .draws] s t) ∧
    (∀ q, Completes (.decR q) s fun t =>
      t.reg q = s.reg q - 1 ∧ dec (s.reg q) t ∧ SameBut [.reg q, .flags, .draws] s t) ∧
    (∀ x h, Completes (.incXHalf x h) s fun t =>
      (∀ g, t.half x g = if g = h then s.half x h + 1 else s.half x g) ∧ inc (s.half x h) t ∧
        SameBut [.idx x, .flags, .draws] s t) ∧
    (∀ x h, Completes (.decXHalf x h) s fun t =>
      (∀ g, t.half x g = if g = h then s.half x h - 1 else s.half x g) ∧ dec (s.half x h) t ∧
        SameBut [.idx x, .flags, .draws] s t) ∧
    (Completes .incAtHl s fun t =>
      Rewrites s s.hl (s.peek s.hl + 1) [.flags, .draws] t ∧ inc (s.peek s.hl) t) ∧
    (Completes .decAtHl s fun t =>
      Rewrites s s.hl (s.peek s.hl - 1) [.flags, .draws] t ∧ dec (s.peek s.hl) t) ∧
    (∀ x d, Completes (.incAtXd x d) s fun t =>
      Rewrites s (s.ea x d) (s.peek (s.ea x d) + 1) [.flags, .draws] t ∧ inc (s.peek (s.ea x d)) t) ∧
    ∀ x d, Completes (.decAtXd x d) s fun t =>
      Rewrites s (s.ea x d) (s.peek (s.ea x d) - 1) [.flags, .draws] t ∧ dec (s.peek (s.ea x d)) t

/-- R270, R271: INC rp, INC X, DEC rp, DEC X. F is unchanged. -/
def Obligations.IncrementDecrementPairs : Prop :=
  (∀ rp : Rp, Decodes [opXPQZ 0 rp.code 0 3] (.incRp rp) ∧ Decodes [opXPQZ 0 rp.code 1 3] (.decRp rp)) ∧
  (∀ x : Idx, Decodes [x.prefixByte, 0x23#8] (.incX x) ∧ Decodes [x.prefixByte, 0x2B#8] (.decX x)) ∧
  ∀ s : State,
    (∀ rp, Completes (.incRp rp) s fun t => t.pair rp = s.pair rp + 1 ∧ SameBut (pairParts rp) s t) ∧
    (∀ rp, Completes (.decRp rp) s fun t => t.pair rp = s.pair rp - 1 ∧ SameBut (pairParts rp) s t) ∧
    (∀ x, Completes (.incX x) s fun t => t.idx x = s.idx x + 1 ∧ SameBut [.idx x] s t) ∧
    ∀ x, Completes (.decX x) s fun t => t.idx x = s.idx x - 1 ∧ SameBut [.idx x] s t

/-- R272 to R274: ADD HL,rp, ADD X,rp, ADC HL,rp, SBC HL,rp. The third pair of ADD X,rp is X itself. -/
def Obligations.WordArithmetic : Prop :=
  (∀ rp : Rp, Decodes [opXPQZ 0 rp.code 1 1] (.addHlRp rp) ∧ Decodes [0xED#8, opXPQZ 1 rp.code 1 2] (.adcHlRp rp) ∧
    Decodes [0xED#8, opXPQZ 1 rp.code 0 2] (.sbcHlRp rp)) ∧
  (∀ (x : Idx) (rp : RpX), Decodes [x.prefixByte, opXPQZ 0 rp.code 1 1] (.addXRp x rp)) ∧
  [RpX.bc, .de, .x, .sp].map RpX.code = [0, 1, 2, 3] ∧
  ∀ s : State,
    (∀ x, [RpX.bc, .de, .x, .sp].map (s.pairX x) = [s.pair .bc, s.pair .de, s.idx x, s.sp]) ∧
    let undoc (r : Int) (t : State) : Prop := UndocAre s t ((Rule.wrap 16 r).getLsbD 13) ((Rule.wrap 16 r).getLsbD 11)
    let add (a b : Word) (t : State) : Prop :=
      FlagsAre t.main.f s.main.f.s s.main.f.z (Rule.addH 12 a b false) s.main.f.pv false (Rule.addC a b false) ∧
        undoc (Rule.sum a b false) t
    let c := s.main.f.c
    (∀ rp, Completes (.addHlRp rp) s fun t =>
      t.pair .hl = Rule.wrap 16 (Rule.sum s.hl (s.pair rp) false) ∧ add s.hl (s.pair rp) t ∧
        SameBut (.flags :: .draws :: pairParts .hl) s t) ∧
    (∀ x rp, Completes (.addXRp x rp) s fun t =>
      t.idx x = Rule.wrap 16 (Rule.sum (s.idx x) (s.pairX x rp) false) ∧ add (s.idx x) (s.pairX x rp) t ∧
        SameBut [.flags, .draws, .idx x] s t) ∧
    (∀ rp, Completes (.adcHlRp rp) s fun t =>
      let a := s.hl
      let b := s.pair rp
      let r := Rule.sum a b c
      t.pair .hl = Rule.wrap 16 r ∧ undoc r t ∧
        FlagsAre t.main.f (Rule.sign 16 r) (Rule.zero 16 r) (Rule.addH 12 a b c) (Rule.addV a b c) false
          (Rule.addC a b c) ∧
        SameBut (.flags :: .draws :: pairParts .hl) s t) ∧
    ∀ rp, Completes (.sbcHlRp rp) s fun t =>
      let a := s.hl
      let b := s.pair rp
      let r := Rule.diff a b c
      t.pair .hl = Rule.wrap 16 r ∧ undoc r t ∧
        FlagsAre t.main.f (Rule.sign 16 r) (Rule.zero 16 r) (Rule.subH 12 a b c) (Rule.subV a b c) true
          (Rule.subC a b c) ∧
        SameBut (.flags :: .draws :: pairParts .hl) s t

/-- R275: DAA. -/
def Obligations.DecimalAdjust : Prop :=
  Decodes [0x27#8] .daa ∧
  ∀ s : State,
    let a := s.main.a
    let f := s.main.f
    let low := a &&& 0x0F#8
    let six := f.h = true ∨ low > 9#8
    let sixty := f.c = true ∨ a > 0x99#8
    let corr : Byte := (if six then 0x06#8 else 0) ||| (if sixty then 0x60#8 else 0)
    let r := if f.n then a - corr else a + corr
    Completes .daa s fun t =>
      t.main.a = r ∧
      LogicFlags t.main.f r (if f.n then decide (f.h = true ∧ low < 6#8) else decide (low > 9#8)) f.n (decide sixty) ∧
      UndocAre s t (r.getLsbD 5) (r.getLsbD 3) ∧ SameBut [.reg .a, .flags, .draws] s t

/-- R276 to R279: CPL, NEG (all eight encodings), SCF, CCF. -/
def Obligations.ComplementNegateCarry : Prop :=
  Decodes [0x2F#8] .cpl ∧ Decodes [0x37#8] .scf ∧ Decodes [0x3F#8] .ccf ∧
  (∀ y : Fin 8, Decodes [0xED#8, opXYZ 1 y 4] .neg) ∧
  ∀ s : State,
    let a := s.main.a
    let f := s.main.f
    (Completes .cpl s fun t =>
      t.main.a = a ^^^ 0xFF#8 ∧ FlagsAre t.main.f f.s f.z true f.pv true f.c ∧
        UndocAre s t (t.main.a.getLsbD 5) (t.main.a.getLsbD 3) ∧ SameBut [.reg .a, .flags, .draws] s t) ∧
    (Completes .neg s fun t =>
      let r := Rule.diff 0 a false
      t.main.a = Rule.wrap 8 r ∧
        FlagsAre t.main.f (Rule.sign 8 r) (Rule.zero 8 r) (Rule.subH 4 0 a false) (decide (a = 0x80#8)) true
          (decide (a ≠ 0)) ∧
        UndocAre s t (t.main.a.getLsbD 5) (t.main.a.getLsbD 3) ∧ SameBut [.reg .a, .flags, .draws] s t) ∧
    (Completes .scf s fun t =>
      FlagsAre t.main.f f.s f.z false f.pv false true ∧ UndocAre s t (a.getLsbD 5) (a.getLsbD 3) ∧
        SameBut [.flags, .draws] s t) ∧
    Completes .ccf s fun t =>
      FlagsAre t.main.f f.s f.z f.c f.pv false (!f.c) ∧ UndocAre s t (a.getLsbD 5) (a.getLsbD 3) ∧
        SameBut [.flags, .draws] s t

/-! ## Rotates, shifts, bits (spec 44) -/

/-- R291 to R294: RLCA, RRCA, RLA, RRA. S, Z and PV are unchanged. -/
def Obligations.AccumulatorRotates : Prop :=
  Decodes [0x07#8] .rlca ∧ Decodes [0x0F#8] .rrca ∧ Decodes [0x17#8] .rla ∧ Decodes [0x1F#8] .rra ∧
  ∀ s : State,
    let effect (f : Byte → Bool → Byte × Bool) (t : State) : Prop :=
      let o := f s.main.a s.main.f.c
      t.main.a = o.1 ∧ FlagsAre t.main.f s.main.f.s s.main.f.z false s.main.f.pv false o.2 ∧
        UndocAre s t (o.1.getLsbD 5) (o.1.getLsbD 3) ∧ SameBut [.reg .a, .flags, .draws] s t
    Completes .rlca s (effect Rule.rlc) ∧ Completes .rrca s (effect Rule.rrc) ∧
      Completes .rla s (effect Rule.rl) ∧ Completes .rra s (effect Rule.rr)

/-- R290, R295 to R302: the CB rotates and shifts of a register and of (HL). -/
def Obligations.RotatesAndShifts : Prop :=
  RotForms 0 .rlcR .rlcAtHl Rule.rlc ∧ RotForms 1 .rrcR .rrcAtHl Rule.rrc ∧
  RotForms 2 .rlR .rlAtHl Rule.rl ∧ RotForms 3 .rrR .rrAtHl Rule.rr ∧
  RotForms 4 .slaR .slaAtHl Rule.sla ∧ RotForms 5 .sraR .sraAtHl Rule.sra ∧
  RotForms 6 .sllR .sllAtHl Rule.sll ∧ RotForms 7 .srlR .srlAtHl Rule.srl

/-- R303: BIT b,r, BIT b,(HL), BIT b,(X+d) with every z. -/
def Obligations.BitTests : Prop :=
  (∀ (b : BitVec 3) (q : Reg8), Decodes [0xCB#8, opXYZ 1 b.toNat q.code] (.bitR b q)) ∧
  (∀ b : BitVec 3, Decodes [0xCB#8, opXYZ 1 b.toNat 6] (.bitAtHl b)) ∧
  (∀ (b : BitVec 3) (x : Idx) d (z : Fin 8), Decodes [x.prefixByte, 0xCB#8, d, opXYZ 1 b.toNat z] (.bitAtXd b x d)) ∧
  ∀ (s : State) (b : BitVec 3),
    let flags (m : Byte) (t : State) : Prop :=
      let bit := m.getLsbD b.toNat
      t.main.f.z = !bit ∧ t.main.f.h = true ∧ t.main.f.n = false ∧ t.main.f.c = s.main.f.c ∧
        UndocSPv s t (bit && decide (b = 7)) (!bit) ∧ UndocAre s t (m.getLsbD 5) (m.getLsbD 3)
    (∀ q, Completes (.bitR b q) s fun t => flags (s.reg q) t ∧ SameBut [.flags, .draws] s t) ∧
    (Completes (.bitAtHl b) s fun t =>
      flags (s.peek s.hl) t ∧ Bus s t [.readMemory s.hl (s.peek s.hl)] ∧ SameBut [.flags, .draws, .bus] s t) ∧
    ∀ x d, Completes (.bitAtXd b x d) s fun t =>
      flags (s.peek (s.ea x d)) t ∧ Bus s t [.readMemory (s.ea x d) (s.peek (s.ea x d))] ∧
        SameBut [.flags, .draws, .bus] s t

/-- R304, R305: RES b,m and SET b,m for a register and (HL). One bit changes, F does not. -/
def Obligations.ResetAndSetBits : Prop :=
  (∀ (b : BitVec 3) (q : Reg8), Decodes [0xCB#8, opXYZ 2 b.toNat q.code] (.resR b q) ∧
    Decodes [0xCB#8, opXYZ 3 b.toNat q.code] (.setR b q)) ∧
  (∀ b : BitVec 3, Decodes [0xCB#8, opXYZ 2 b.toNat 6] (.resAtHl b) ∧ Decodes [0xCB#8, opXYZ 3 b.toNat 6] (.setAtHl b)) ∧
  ∀ (s : State) (b : BitVec 3),
    let only (new : Bool) (m r : Byte) : Prop := ∀ k < 8, r.getLsbD k = if k = b.toNat then new else m.getLsbD k
    (∀ q, Completes (.resR b q) s fun t => only false (s.reg q) (t.reg q) ∧ SameBut [.reg q] s t) ∧
    (∀ q, Completes (.setR b q) s fun t => only true (s.reg q) (t.reg q) ∧ SameBut [.reg q] s t) ∧
    (Completes (.resAtHl b) s fun t => ∃ r, only false (s.peek s.hl) r ∧ Rewrites s s.hl r [] t) ∧
    Completes (.setAtHl b) s fun t => ∃ r, only true (s.peek s.hl) r ∧ Rewrites s s.hl r [] t

/-- R306: rot[y] (X+d), RES b,(X+d), SET b,(X+d). -/
def Obligations.IndexedRotatesAndBits : Prop :=
  RotIndexed 0 .rlcAtXd Rule.rlc ∧ RotIndexed 1 .rrcAtXd Rule.rrc ∧ RotIndexed 2 .rlAtXd Rule.rl ∧
  RotIndexed 3 .rrAtXd Rule.rr ∧ RotIndexed 4 .slaAtXd Rule.sla ∧ RotIndexed 5 .sraAtXd Rule.sra ∧
  RotIndexed 6 .sllAtXd Rule.sll ∧ RotIndexed 7 .srlAtXd Rule.srl ∧
  (∀ (b : BitVec 3) (x : Idx) d, Decodes [x.prefixByte, 0xCB#8, d, opXYZ 2 b.toNat 6] (.resAtXd b x d) ∧
    Decodes [x.prefixByte, 0xCB#8, d, opXYZ 3 b.toNat 6] (.setAtXd b x d)) ∧
  ∀ (s : State) (b : BitVec 3) (x : Idx) (d : Byte),
    let m := s.peek (s.ea x d)
    Completes (.resAtXd b x d) s (Rewrites s (s.ea x d) (m &&& ~~~(1#8 <<< b.toNat)) []) ∧
      Completes (.setAtXd b x d) s (Rewrites s (s.ea x d) (m ||| (1#8 <<< b.toNat)) [])

/-- R307 to R317: the register-copy forms. H and L are the copies' registers, never the index halves. -/
def Obligations.RegisterCopyForms : Prop :=
  RotCopies 0 .rlcAlt Rule.rlc ∧ RotCopies 1 .rrcAlt Rule.rrc ∧ RotCopies 2 .rlAlt Rule.rl ∧
  RotCopies 3 .rrAlt Rule.rr ∧ RotCopies 4 .slaAlt Rule.sla ∧ RotCopies 5 .sraAlt Rule.sra ∧
  RotCopies 6 .sllAlt Rule.sll ∧ RotCopies 7 .srlAlt Rule.srl ∧
  (∀ (b : BitVec 3) (x : Idx) d (q : Reg8), Decodes [x.prefixByte, 0xCB#8, d, opXYZ 2 b.toNat q.code] (.resAlt b x d q) ∧
    Decodes [x.prefixByte, 0xCB#8, d, opXYZ 3 b.toNat q.code] (.setAlt b x d q)) ∧
  ∀ (s : State) (b : BitVec 3) (x : Idx) (d : Byte) (q : Reg8),
    let m := s.peek (s.ea x d)
    (Completes (.resAlt b x d q) s fun t =>
      Rewrites s (s.ea x d) (m &&& ~~~(1#8 <<< b.toNat)) [.reg q] t ∧ t.reg q = m &&& ~~~(1#8 <<< b.toNat)) ∧
    Completes (.setAlt b x d q) s fun t =>
      Rewrites s (s.ea x d) (m ||| (1#8 <<< b.toNat)) [.reg q] t ∧ t.reg q = m ||| (1#8 <<< b.toNat)

/-- R318, R319: RLD and RRD. -/
def Obligations.DigitRotates : Prop :=
  Decodes [0xED#8, 0x6F#8] .rld ∧ Decodes [0xED#8, 0x67#8] .rrd ∧
  ∀ s : State,
    let v := s.peek s.hl
    let a := s.main.a
    let effect (m r : Byte) (t : State) : Prop :=
      Rewrites s s.hl m [.reg .a, .flags, .draws] t ∧ t.main.a = r ∧
        LogicFlags t.main.f r false false s.main.f.c ∧ UndocAre s t (r.getLsbD 5) (r.getLsbD 3)
    Completes .rld s (effect ((v <<< 4) ||| (a &&& 0x0F#8)) ((a &&& 0xF0#8) ||| (v >>> 4))) ∧
      Completes .rrd s (effect ((a <<< 4) ||| (v >>> 4)) ((a &&& 0xF0#8) ||| (v &&& 0x0F#8)))

/-! ## Jumps, calls, returns (spec 45) -/

/-- R320 to R322: JP nn, JP cc,nn, JP (HL), JP (X); and the condition table of 10 R30, which JR, CALL and RET share. -/
def Obligations.AbsoluteJumps : Prop :=
  (∀ f : Flags,
    (Cond.nz.holds f = true ↔ f.z = false) ∧ (Cond.z.holds f = true ↔ f.z = true) ∧
    (Cond.nc.holds f = true ↔ f.c = false) ∧ (Cond.c.holds f = true ↔ f.c = true) ∧
    (Cond.po.holds f = true ↔ f.pv = false) ∧ (Cond.pe.holds f = true ↔ f.pv = true) ∧
    (Cond.p.holds f = true ↔ f.s = false) ∧ (Cond.m.holds f = true ↔ f.s = true)) ∧
  [Cond.nz, .z, .nc, .c, .po, .pe, .p, .m].map Cond.code = [0, 1, 2, 3, 4, 5, 6, 7] ∧
  (∀ lo hi, Decodes [0xC3#8, lo, hi] (.jp (joinBytes hi lo))) ∧
  (∀ (x : Idx) lo hi, Decodes [x.prefixByte, 0xC3#8, lo, hi] (.jp (joinBytes hi lo))) ∧
  (∀ (cc : Cond) lo hi, Decodes [opXYZ 3 cc.code 2, lo, hi] (.jpCc cc (joinBytes hi lo))) ∧
  Decodes [0xE9#8] .jpHl ∧ (∀ x : Idx, Decodes [x.prefixByte, 0xE9#8] (.jpX x)) ∧
  ∀ s : State,
    (∀ nn, Completes (.jp nn) s fun t => t.pc = nn ∧ SameBut [.pc] s t) ∧
    (∀ cc nn, Completes (.jpCc cc nn) s fun t =>
      t.pc = (if cc.holds s.main.f then nn else s.pc) ∧ SameBut [.pc] s t) ∧
    (Completes .jpHl s fun t => t.pc = s.pair .hl ∧ SameBut [.pc] s t) ∧
    ∀ x, Completes (.jpX x) s fun t => t.pc = s.idx x ∧ SameBut [.pc] s t

/-- R323 to R325: JR d, JR cc,d, DJNZ d. -/
def Obligations.RelativeJumps : Prop :=
  (∀ d, Decodes [0x18#8, d] (.jr d)) ∧
  (∀ (cc : Cond) d, cc.isJr = true → Decodes [opXYZ 0 (4 + cc.code) 0, d] (.jrCc cc d)) ∧
  (∀ d, Decodes [0x10#8, d] (.djnz d)) ∧
  ∀ (s : State) d,
    let target := s.pc + BitVec.ofInt 16 d.toInt
    (Completes (.jr d) s fun t => t.pc = target ∧ SameBut [.pc] s t) ∧
    (∀ cc, cc.isJr = true → Completes (.jrCc cc d) s fun t =>
      t.pc = (if cc.holds s.main.f then target else s.pc) ∧ SameBut [.pc] s t) ∧
    Completes (.djnz d) s fun t =>
      t.main.b = s.main.b - 1 ∧ t.pc = (if s.main.b = 1 then s.pc else target) ∧ SameBut [.pc, .reg .b] s t

/-- R326, R327, R333: CALL nn, CALL cc,nn, RST p. -/
def Obligations.CallsAndRestarts : Prop :=
  (∀ lo hi, Decodes [0xCD#8, lo, hi] (.call (joinBytes hi lo))) ∧
  (∀ (cc : Cond) lo hi, Decodes [opXYZ 3 cc.code 4, lo, hi] (.callCc cc (joinBytes hi lo))) ∧
  (∀ k : Fin 8, Decodes [opXYZ 3 k 7] (.rst (BitVec.ofNat 8 (8 * k)))) ∧
  ∀ s : State,
    let called (target : Word) (t : State) : Prop :=
      Pushes s t s.pc ∧ t.pc = target ∧ SameBut [.pc, .sp, .mem, .bus] s t
    (∀ nn, Completes (.call nn) s (called nn)) ∧
    (∀ cc nn, Completes (.callCc cc nn) s fun t => if cc.holds s.main.f then called nn t else t = s) ∧
    ∀ k : Fin 8, Completes (.rst (BitVec.ofNat 8 (8 * k))) s (called (BitVec.ofNat 16 (8 * k)))

/-- R328, R329, R331, R332: RET, RET cc, RETN, RETI. IFF2 is unchanged. -/
def Obligations.ReturnInstructions : Prop :=
  Decodes [0xC9#8] .ret ∧ (∀ cc : Cond, Decodes [opXYZ 3 cc.code 0] (.retCc cc)) ∧
  (∀ y : Fin 8, y ≠ 1 → Decodes [0xED#8, opXYZ 1 y 5] .retn) ∧ Decodes [0xED#8, 0x4D#8] .reti ∧
  ∀ s : State,
    let returned (t : State) : Prop := Pops s t ∧ t.pc = s.peek16 s.sp
    (Completes .ret s fun t => returned t ∧ SameBut [.pc, .sp, .bus] s t) ∧
    (∀ cc, Completes (.retCc cc) s fun t =>
      if cc.holds s.main.f then returned t ∧ SameBut [.pc, .sp, .bus] s t else t = s) ∧
    (Completes .retn s fun t => returned t ∧ t.iff1 = s.iff2 ∧ SameBut [.pc, .sp, .bus, .iff1] s t) ∧
    Completes .reti s fun t => returned t ∧ t.iff1 = s.iff2 ∧ SameBut [.pc, .sp, .bus, .iff1] s t

/-! ## I/O, no-operations, CPU control (spec 46) -/

/-- R340, R341: IN A,(n), IN r,(C), IN (C). The byte is the device's answer; `s.portByte` is the model's oracle for it
(the model's choice, log entry 5). -/
def Obligations.PortInput : Prop :=
  (∀ n, Decodes [0xDB#8, n] (.inAN n)) ∧ (∀ q : Reg8, Decodes [0xED#8, opXYZ 1 q.code 0] (.inRC q)) ∧
  Decodes [0xED#8, 0x70#8] .inC ∧
  ∀ s : State,
    let read (port : Word) (t : State) : Prop :=
      Bus s t [.readIo port (s.portByte port)] ∧ t.trace.events = s.trace.events ++ [.read port (s.portByte port)] ∧
        t.portAnswers = (if s.portMapped port then s.portAnswers.tail else s.portAnswers)
    let v := s.portByte (joinBytes s.main.b s.main.c)
    let flags (t : State) : Prop :=
      LogicFlags t.main.f v false false s.main.f.c ∧ UndocAre s t (v.getLsbD 5) (v.getLsbD 3)
    (∀ port, s.portMapped port = false → s.portByte port = 0) ∧
    (∀ port, s.portMapped port = true →
      s.portByte port = s.portAnswers.head?.getD (Config.ioRead s.trace.events port)) ∧
    (∀ n, Completes (.inAN n) s fun t =>
      read (joinBytes s.main.a n) t ∧ t.main.a = s.portByte (joinBytes s.main.a n) ∧
        SameBut [.reg .a, .bus, .events, .answers] s t) ∧
    (∀ q, Completes (.inRC q) s fun t =>
      read (joinBytes s.main.b s.main.c) t ∧ t.reg q = v ∧ flags t ∧
        SameBut [.reg q, .flags, .draws, .bus, .events, .answers] s t) ∧
    Completes .inC s fun t =>
      read (joinBytes s.main.b s.main.c) t ∧ flags t ∧ SameBut [.flags, .draws, .bus, .events, .answers] s t

/-- R342, R343: OUT (n),A, OUT (C),r, OUT (C),0. -/
def Obligations.PortOutput : Prop :=
  (∀ n, Decodes [0xD3#8, n] (.outNA n)) ∧ (∀ q : Reg8, Decodes [0xED#8, opXYZ 1 q.code 1] (.outCR q)) ∧
  Decodes [0xED#8, 0x71#8] .outC0 ∧
  ∀ s : State,
    let written (port : Word) (v : Byte) (t : State) : Prop :=
      Bus s t [.writeIo port v] ∧ t.trace.events = s.trace.events ++ [.write port v] ∧ SameBut [.bus, .events] s t
    (∀ n, Completes (.outNA n) s (written (joinBytes s.main.a n) s.main.a)) ∧
    (∀ q, Completes (.outCR q) s (written (joinBytes s.main.b s.main.c) (s.reg q))) ∧
    Completes .outC0 s (written (joinBytes s.main.b s.main.c) 0)

/-- R344 to R346: NOP, NONI, the empty entry; and 30 R122 step 5 for the four prefix rows of the opcode table, whose only
effect is the decoder's prefix (that these rows are instructions is the model's choice, log entry 14). -/
def Obligations.NoOperationsAndPrefixRows : Prop :=
  Decodes [0x00#8] .nop ∧ (∀ x : Idx, Decodes [x.prefixByte, 0x00#8] .nop) ∧
  Decodes [0xED#8, 0x77#8] .nop ∧ Decodes [0xED#8, 0x7F#8] .nop ∧ Decodes [0xED#8, 0x00#8] .noni ∧
  (∀ b ∈ [0x46#8, 0x4E#8, 0x56#8, 0x5E#8, 0x66#8, 0x6E#8, 0x7E#8],
    Decodes [b] .nopEmpty ∧ ∀ x : Idx, Decodes [x.prefixByte, b] .nopEmpty) ∧
  ∀ s : State,
    (∀ i ∈ [Instr.nop, .noni, .nopEmpty], Completes i s fun t => t = s) ∧
    ∀ c ∈ [(0xCB#8, Pfx.CB, Instr.prefixCB), (0xDD#8, .DD, .prefixDD), (0xED#8, .ED, .prefixED),
        (0xFD#8, .FD, .prefixFD)],
      Completes c.2.2 s fun t =>
        t.decoder.pfx = c.2.1 ∧ SameBut [.decoder] s t ∧ (s.decoder = Decoder.empty → s.decoder.feed c.1 = (t.decoder, none))

/-- R347 to R349: HALT, DI, EI. -/
def Obligations.HaltAndInterruptEnables : Prop :=
  Decodes [0x76#8] .halt ∧ (∀ x : Idx, Decodes [x.prefixByte, 0x76#8] .halt) ∧
  Decodes [0xF3#8] .di ∧ Decodes [0xFB#8] .ei ∧
  ∀ s : State,
    (Completes .halt s fun t => t.halted = true ∧ t.haltLine = true ∧ SameBut [.halted] s t) ∧
    (Completes .di s fun t => t.iff1 = false ∧ t.iff2 = false ∧ SameBut [.iff1, .iff2] s t) ∧
    Completes .ei s fun t => t.iff1 = true ∧ t.iff2 = true ∧ SameBut [.iff1, .iff2] s t

/-- R350 to R354: IM i, LD I,A, LD R,A, LD A,I, LD A,R. -/
def Obligations.ModeVectorRefresh : Prop :=
  (∀ y : Fin 8, Decodes [0xED#8, opXYZ 1 y 6] (.im (BitVec.ofNat 2 y))) ∧
  Decodes [0xED#8, 0x47#8] .ldIA ∧ Decodes [0xED#8, 0x4F#8] .ldRA ∧
  Decodes [0xED#8, 0x57#8] .ldAI ∧ Decodes [0xED#8, 0x5F#8] .ldAR ∧
  ∀ s : State,
    let loaded (v : Byte) (t : State) : Prop :=
      t.main.a = v ∧
        FlagsAre t.main.f (v.getLsbD 7) (decide (v = 0)) false s.iff2 false s.main.f.c ∧
        UndocAre s t (v.getLsbD 5) (v.getLsbD 3) ∧ SameBut [.reg .a, .flags, .draws] s t
    (∀ c ∈ [(0#2, IntMode.mode0), (1#2, .mode0), (2#2, .mode1), (3#2, .mode2)],
      Completes (.im c.1) s fun t => t.im = c.2 ∧ SameBut [.im] s t) ∧
    (Completes .ldIA s fun t => t.i = s.main.a ∧ SameBut [.vectorI] s t) ∧
    (Completes .ldRA s fun t => t.r = s.main.a ∧ SameBut [.refreshR] s t) ∧
    Completes .ldAI s (loaded s.i) ∧ Completes .ldAR s (loaded s.r)

/-! ## The decoder (spec 30) -/

/-- No bit of an encoding is dropped: every well-formed instruction is read back from its own words, and, but for the prefix
rows, whatever bytes follow. -/
def Obligations.DecodeOfEncode : Prop :=
  ∀ i : Instr, i.wf = true →
    decode (encode i) = .ok (i, []) ∧ (isPrefixRow i = false → Decodes (encode i) i)

/-- R101, R138: decoding is total. Four bytes always hold an instruction of 1 to 4 bytes, and it is a well-formed one. -/
def Obligations.DecodeIsTotal : Prop :=
  ∀ (b0 b1 b2 b3 : Byte) (rest : List Byte), ∃ i n, 1 ≤ n ∧ n ≤ 4 ∧
    decode (b0 :: b1 :: b2 :: b3 :: rest) = .ok (i, (b0 :: b1 :: b2 :: b3 :: rest).drop n) ∧
    i.wf = true ∧ isPrefixRow i = false

/-- Sanity: the operand tables of 30 R113, the fields of 30 R100, and words written out from the spec's encodings and examples. -/
def Obligations.SampleWordsDecode : Prop :=
  [Reg8.b, .c, .d, .e, .h, .l, .a].map Reg8.code = [0, 1, 2, 3, 4, 5, 7] ∧
  [Rp.bc, .de, .hl, .sp].map Rp.code = [0, 1, 2, 3] ∧ [Rp2.bc, .de, .hl, .af].map Rp2.code = [0, 1, 2, 3] ∧
  Idx.ix.prefixByte = 0xDD#8 ∧ Idx.iy.prefixByte = 0xFD#8 ∧
  (∀ (x : Fin 4) (y z : Fin 8), (opXYZ x y z).toNat = 64 * x + 8 * y + z) ∧
  (∀ (x p : Fin 4) (q : Fin 2) (z : Fin 8), (opXPQZ x p q z).toNat = 64 * x + 16 * p + 8 * q + z) ∧
  Decodes [0b00000001#8, 0x34#8, 0x12#8] (.ldRpNn .bc 0x1234#16) ∧
  Decodes [0b01111000#8] (.ldRR .a .b) ∧
  Decodes [0b11001011#8, 0b01111110#8] (.bitAtHl 7#3) ∧
  Decodes [0b11101101#8, 0b01011010#8] (.adcHlRp .de) ∧
  Decodes [0b11101101#8, 0b10110000#8] .ldir ∧
  Decodes [0b11011101#8, 0b00110110#8, 0xFE#8, 0xAA#8] (.ldAtXdN .ix 0xFE#8 0xAA#8) ∧
  Decodes [0b11111101#8, 0b00101001#8] (.addXRp .iy .x) ∧
  Decodes [0b11011101#8, 0b11001011#8, 0x06#8, 0b01000110#8] (.bitAtXd 0#3 .ix 0x06#8) ∧
  Decodes [0b11111101#8, 0b11001011#8, 0x02#8, 0b00011111#8] (.rrAlt .iy 0x02#8 .a) ∧
  Decodes [0b11111111#8] (.rst 0x38#8) ∧ Decodes [0b11011011#8, 0x34#8] (.inAN 0x34#8) ∧
  Decodes [0b11011101#8, 0b01000110#8] .nopEmpty ∧ Decodes [0b11011101#8, 0b11101101#8] .noni

/-- R127, R129, R134: the undefined encodings, and the prefixes with no effect. -/
def Obligations.PrefixesAndUndefinedEncodings : Prop :=
  (∀ b : Byte, prefixOf b ≠ none ↔ b ∈ [0xCB#8, 0xDD#8, 0xED#8, 0xFD#8]) ∧
  (∀ b : Byte, ((b.toNat / 64 = 0 ∨ b.toNat / 64 = 3) ∨ (b.toNat / 64 = 2 ∧ ¬ (b.toNat % 8 ≤ 3 ∧ 4 ≤ b.toNat / 8 % 8))) →
    Decodes [0xED#8, b] .noni) ∧
  (∀ x : Idx, ∀ b ∈ [0xDD#8, 0xED#8, 0xFD#8], Decodes [x.prefixByte, b] .noni) ∧
  ∀ (x : Idx) (b : Byte) (rest : List Byte), prefixOf b = none →
    (b = 0xEB#8 ∨ ∀ o ∈ [Operand.HL, .H, .L], (plainDetails b).dest ≠ o ∧ (plainDetails b).source ≠ o) →
    decode (x.prefixByte :: b :: rest) = decode (b :: rest)

/-! ## The step (spec 70) -/

/-- A step runs the decoded instruction. Where the upcoming bytes decode to `i`, the step is `exec i` in the state `u` that
the fetch leads to; then the internal cycles of `i` run, and the interrupt check. Each bus operation of the fetch is on the
pins, in any environment, before its byte is read. That the internal cycles of `i` come after its bus operations and before
the check is the model's choice (log entry 6). -/
def Obligations.StepRunsDecodedInstruction : Prop :=
  ∀ (s : State) (i : Instr) (left : List Byte),
    s.kill = false → s.resetLine = false → s.halted = false → s.decoder = Decoder.empty →
    decode s.upcoming = .ok (i, left) →
    ∃ u, Fetched s.beginStep left u ∧ SameBut [.pc, .refreshR, .mode0Byte, .bus] s.beginStep u ∧
      step s =
        match exec i u with
        | .next t => toOut (t.internal (Config.extraT i (happens i u))).interruptCheck
        | .fault e => .fault e
        | .refused q => .refused q

/-- In a quiet environment a step is the fetch, then `exec` of the decoded instruction, then the interrupt check: the clock
edges of its bus operations and of its internal cycles change nothing but the lines, the counters and the record of edges
(00 R5; 70 R452). -/
def Obligations.QuietStepIsFetchExecCheck : Prop :=
  ∀ (s : State) (i : Instr) (left : List Byte), Quiet s → s.halted = false → s.decoder = Decoder.empty →
    decode s.upcoming = .ok (i, left) →
    ∃ u t v, Fetched s.beginStep left u ∧ SameBut [.pc, .refreshR, .mode0Byte, .ops, .timing] s.beginStep u ∧
      exec i u = .next t ∧ Quiet t ∧ t.nmiLatch = s.nmiLatch ∧ t.intLatch = s.intLatch ∧ t.intVector = s.intVector ∧
      SameBut [.timing] t v ∧ step s = toOut v.interruptCheck

/-- Forward progress (40 R182; 60 R400): in a quiet environment every step answers a next state, quiet again, with an empty
decoder. No byte sequence and no operand stops the machine. -/
def Obligations.QuietMachineNeverStops : Prop :=
  ∀ s : State, Quiet s → s.decoder = Decoder.empty → ∃ t, step s = .next t ∧ Quiet t ∧ t.decoder = Decoder.empty

/-- R465: the T-cycles of a step in a quiet environment, whatever `EXTRA_T` is. -/
def Obligations.StepCycleCount : Prop :=
  ∀ (s f t : State) (i : Instr), Quiet s → s.halted = false → s.decoder = Decoder.empty →
    fetchDecode 4 s.beginStep = some (i, f) → step s = .next t →
    t.tInstr = BitVec.ofNat 64 ((t.trace.bus.map fun op => op.phases.length).sum + Config.extraT i (happens i f)) ∧
      t.tTotal = s.tTotal + t.tInstr

/-- R450, with R48's values: the step that finds RESET asserted is the reset sequence: one clock edge, no fetch and no
interrupt check, whatever the machine was doing; what the outside sends at that edge is seen, a kill apart. All R48 leaves
is unchanged. That neither WAIT nor BUSREQ stretches the sequence, and that `t_total` counts its edge where R48's table says
"unchanged", is the model's choice (log entry 11), as is that signals are seen at an edge (log entry 7). -/
def Obligations.ResetSequenceStep : Prop :=
  ∀ s : State, s.kill = false → s.stuck = none → s.resetLine = true → (s.clock = [] → s.clockEnds = false) →
    Signal.kill ∉ s.clock.head?.getD [] →
    ∃ t, step s = .next t ∧ t.pc = 0 ∧ t.i = 0 ∧ t.r = 0 ∧ t.im = .mode0 ∧ t.iff1 = false ∧ t.halted = false ∧
      t.decoder = Decoder.empty ∧ t.mode0Byte = none ∧ t.pins.lines = {} ∧ t.pins.mcycle = .other ∧ t.tInstr = 0 ∧
      t.tTotal = s.tTotal + 1 ∧ t.trace.bus = [] ∧ t.clock = s.clock.tail ∧
      SameBut [.pc, .vectorI, .refreshR, .im, .iff1, .halted, .decoder, .mode0Byte, .ops, .timing, .clock] (s.seen 1) t

/-- R454: a halted step is one opcode fetch at PC, discarded, then the interrupt check. With no request it may accept, that
is all of it. The R increment is that of 10 R27: R[6:0] modulo 128, R[7] kept. That a halted step has no internal cycles is
the model's choice (log entry 6). -/
def Obligations.HaltedStep : Prop :=
  (∀ r : Byte, (bumpR r).getLsbD 7 = r.getLsbD 7 ∧ (bumpR r).toNat % 128 = (r.toNat % 128 + 1) % 128) ∧
  ∀ s : State, Quiet s → s.halted = true →
    ∃ u, step s = toOut u.interruptCheck ∧ u.r = bumpR s.r ∧ u.trace.bus = [.fetchOpcode s.pc (s.peek s.pc)] ∧
      u.tInstr = 4 ∧ SameBut [.refreshR, .ops, .timing] s u ∧
      (s.nmiLatch = false → s.intLatch = false ∨ s.iff1 = false → step s = .next u)

/-! ## Interrupts (spec 60) -/

/-- R405, R413: a latched NMI is acknowledged whatever IFF1 and the INT latch are. -/
def Obligations.NmiAcknowledge : Prop :=
  ∀ s : State, Quiet s → s.nmiLatch = true →
    ∃ t, s.interruptCheck = t ∧ t.nmiLatch = false ∧ t.halted = false ∧ t.r = bumpR s.r ∧ t.iff2 = s.iff1 ∧
      t.iff1 = false ∧ t.pc = 0x0066#16 ∧ t.sp = s.sp - 2 ∧ StoresWord s t (s.sp - 2) s.pc ∧
      Ops s t [.nmiAcknowledge s.pc, .writeMemory (s.sp - 1) (hiByte s.pc), .writeMemory (s.sp - 2) (loByte s.pc)] ∧
      SameBut [.nmiLatch, .halted, .refreshR, .iff1, .iff2, .pc, .sp, .mem, .ops, .timing] s t

/-- R406 to R411: an INT is acknowledged at a boundary exactly when it is latched, IFF1 = 1 and no NMI is latched, and the
three modes. In mode 0 the byte is the next instruction's first; in mode 2 the target is read from the table after the push.
The byte is the device's, else `INT_NO_VECTOR`, 0xFF by default. -/
def Obligations.IntAcknowledge : Prop :=
  State.reset.cfg.intNoVector = 0xFF#8 ∧ Decodes [0xFF#8] (.rst 0x38#8) ∧
  ∀ s : State, Quiet s → s.nmiLatch = false →
    ((s.intLatch = false ∨ s.iff1 = false) → s.interruptCheck = s) ∧
    (s.intLatch = true → s.iff1 = true →
      let v := s.intVector.getD s.cfg.intNoVector
      let pushed := [BusOp.writeMemory (s.sp - 1) (hiByte s.pc), .writeMemory (s.sp - 2) (loByte s.pc)]
      let common : List Part := [.intLatch, .halted, .refreshR, .intVector, .iff1, .iff2, .ops, .timing]
      let table := joinBytes s.i v
      ∃ t, s.interruptCheck = t ∧ t.intLatch = false ∧ t.halted = false ∧ t.r = bumpR s.r ∧ t.intVector = none ∧
        t.iff1 = false ∧ t.iff2 = false ∧
        match s.im with
        | .mode0 =>
          t.mode0Byte = some v ∧ t.upcoming.head? = some v ∧ Ops s t [.intAcknowledge v] ∧
            SameBut (.mode0Byte :: common) s t
        | .mode1 =>
          t.pc = 0x0038#16 ∧ t.sp = s.sp - 2 ∧ StoresWord s t (s.sp - 2) s.pc ∧ Ops s t (.intAcknowledge v :: pushed) ∧
            SameBut ([.pc, .sp, .mem] ++ common) s t
        | .mode2 =>
          t.pc = t.peek16 table ∧ t.sp = s.sp - 2 ∧ StoresWord s t (s.sp - 2) s.pc ∧
            Ops s t (.intAcknowledge v :: pushed ++
              [.readMemory table (t.peek table), .readMemory (table + 1) (t.peek (table + 1))]) ∧
            SameBut ([.pc, .sp, .mem] ++ common) s t)

/-- R405 with R331: RETN after an NMI entry brings PC, SP and IFF1 back, where the two stack bytes can be written. -/
def Obligations.RetnUndoesNmiEntry : Prop :=
  ∀ s : State, Quiet s → s.nmiLatch = true → s.writable (s.sp - 1) = true → s.writable (s.sp - 2) = true →
    ∃ t u, s.interruptCheck = t ∧ exec .retn t = .next u ∧ u.pc = s.pc ∧ u.sp = s.sp ∧ u.iff1 = s.iff1

/-- R36, R401, R458: what the outside can do: requests latch, merge and stay latched; a source that asserts an input line is
one of the line's sources until it deasserts it, whatever the others do, and the line is asserted exactly while it has a
source; a kill stops the machine at the boundary or at the edge that brings it. The model's choices: these stops are the
faults `killed` and `killedMidStep` (log entry 10), a phase that never ends makes the step a fault (9), signals arrive at
edges (7), and sources are numbered (22). -/
def Obligations.SignalSurface : Prop :=
  ∀ s : State,
    (s.signal .int).intLatch = true ∧ SameBut [.intLatch] s (s.signal .int) ∧
    (s.signal .nmi).nmiLatch = true ∧ SameBut [.nmiLatch] s (s.signal .nmi) ∧
    (s.signal .int).signal .int = s.signal .int ∧ (s.signal .nmi).signal .nmi = s.signal .nmi ∧
    (∀ x, (s.intLatch = true → (s.signal x).intLatch = true) ∧ (s.nmiLatch = true → (s.signal x).nmiLatch = true)) ∧
    (∀ v, (s.signal (.vector v)).intVector = some v ∧ SameBut [.intVector] s (s.signal (.vector v))) ∧
    (s.busreq = true ↔ ∃ j, j ∈ s.pins.busreqSources) ∧ (s.resetLine = true ↔ ∃ j, j ∈ s.pins.resetSources) ∧
    (s.wait = true ↔ ∃ j, j ∈ s.pins.waitSources) ∧
    (∀ k on,
      let asserts (sources : List Nat) (j : Nat) : Prop := if j = k then on = true else j ∈ sources
      (∀ j, (j ∈ (s.signal (.busreq k on)).pins.busreqSources ↔ asserts s.pins.busreqSources j) ∧
        (j ∈ (s.signal (.reset k on)).pins.resetSources ↔ asserts s.pins.resetSources j) ∧
        (j ∈ (s.signal (.wait k on)).pins.waitSources ↔ asserts s.pins.waitSources j)) ∧
      SameBut [.busreq] s (s.signal (.busreq k on)) ∧ SameBut [.reset] s (s.signal (.reset k on)) ∧
      SameBut [.wait] s (s.signal (.wait k on))) ∧
    (s.kill = true → step s = .fault .killed) ∧ (∀ f, s.stuck = some f → toOut s = .fault f) ∧
    ∀ e rest, s.clock = e :: rest → Signal.kill ∈ e → s.edge = .error .killedMidStep

/-! ## The bus (spec 20) -/

/-- R71 to R78, R81: the phases of each bus operation, and one operation on the pins in a quiet environment: one edge for each
phase, the phase's lines held until it, and every line deasserted afterwards. In any environment its byte moves in the state
that its last phase leaves, `s.cycle k`. -/
def Obligations.BusOperationPhases : Prop :=
  let fetch : List Lines :=
    [{ m1 := true, mreq := true, rd := true }, { m1 := true, mreq := true, rd := true },
      { mreq := true, rfsh := true }, { rfsh := true }]
  (∀ a v, (BusOp.fetchOpcode a v).phases = fetch ∧ (BusOp.fetchOpcode a v).kind = .opcodeFetch) ∧
  (∀ a, (BusOp.nmiAcknowledge a).phases = fetch ∧ (BusOp.nmiAcknowledge a).kind = .opcodeFetch) ∧
  (∀ a v, (BusOp.readMemory a v).phases = List.replicate 3 { mreq := true, rd := true } ∧
    (BusOp.readMemory a v).kind = .memRead) ∧
  (∀ a v, (BusOp.writeMemory a v).phases = [{ mreq := true }, { mreq := true, wr := true }, { mreq := true, wr := true }] ∧
    (BusOp.writeMemory a v).kind = .memWrite) ∧
  (∀ a v, (BusOp.readIo a v).phases = {} :: List.replicate 3 { iorq := true, rd := true } ∧
    (BusOp.readIo a v).kind = .ioRead) ∧
  (∀ a v, (BusOp.writeIo a v).phases = {} :: List.replicate 3 { iorq := true, wr := true } ∧
    (BusOp.writeIo a v).kind = .ioWrite) ∧
  (∀ v, (BusOp.intAcknowledge v).phases =
      [{ m1 := true }, { m1 := true, iorq := true }, { rfsh := true, mreq := true }, { rfsh := true }] ∧
    (BusOp.intAcknowledge v).kind = .intAck) ∧
  (∀ (s : State) (op : BusOp), Quiet s →
    let t := s.operations [op]
    t.pins.lines = {} ∧ t.tTotal = s.tTotal + BitVec.ofNat 64 op.phases.length ∧
      t.wave = s.wave ++ op.phases.map (fun l => { kind := op.kind, lines := l, halt := s.halted }) ∧
      SameBut [.timing] s { s with toSurface := t }) ∧
  ∀ (s : State) (a : Word) (v : Byte),
    (s.memRead a).1 = (s.cycle .readMemory).peek a ∧ (s.opcodeFetch a).1 = (s.cycle .fetchOpcode).peek a ∧
      (s.memWrite a v).mem = (s.cycle .writeMemory).poke a v ∧ (s.ioRead a).1 = (s.cycle .readIo).portByte a ∧
      (s.ioWrite a v).trace.events = (s.cycle .writeIo).trace.events ++ [.write a v] ∧
      s.acknowledge.1 = (s.cycle .intAcknowledge).intVector.getD s.cfg.intNoVector ∧
      s.acknowledge.2.intVector = none ∧ ∀ ops, (s.operations ops).halted = s.halted

/-- R79: a phase whose edge finds WAIT asserted keeps its lines until WAIT is deasserted, and every edge counts. When
signals arrive is the model's choice (log entry 7). -/
def Obligations.WaitStretchesPhase : Prop :=
  ∀ (s : State) (l : Lines) (k n : Nat) (rest : List Edge), s.kill = false → s.pins.waitSources = [] →
    s.clock = [.wait k true] :: (List.replicate n [] ++ [.wait k false] :: rest) →
    ∃ t : Surface, s.phase l = .ok t ∧ t.pins.lines = l ∧ t.clock = rest ∧ t.tTotal = s.tTotal + BitVec.ofNat 64 (n + 2) ∧
      t.tInstr = s.tInstr + BitVec.ofNat 64 (n + 2) ∧
      t.wave =
        s.wave ++ List.replicate (n + 2) { kind := s.pins.mcycle, lines := l, halt := s.halted } ∧
      SameBut [.timing, .clock] s { s with toSurface := t }

/-- R80, R85: a bus operation that finds BUSREQ asserted hands the bus over first: BUSACK alone is asserted until BUSREQ is
deasserted, then the operation runs. No register, flag or byte of memory changes. The M-cycle kind recorded
during the hand-off, its last value, is the model's choice (log entry 12), as is when signals arrive (log entry 7). -/
def Obligations.BusRequestHandOff : Prop :=
  ∀ (s : State) (op : BusOp) (k n : Nat), s.kill = false → s.stuck = none → s.pins.waitSources = [] → s.pins.busreqSources = [k] →
    s.clock = List.replicate n [] ++ [[.busreq k false]] → s.clockEnds = false →
    let t := s.operations [op]
    t.busreq = false ∧ t.pins.lines = {} ∧
      t.tTotal = s.tTotal + BitVec.ofNat 64 (n + 1 + op.phases.length) ∧
      t.wave =
        s.wave ++
          (List.replicate (n + 1) { kind := s.pins.mcycle, lines := { busack := true }, halt := s.halted } ++
            op.phases.map (fun l => { kind := op.kind, lines := l, halt := s.halted })) ∧
      SameBut [.timing, .clock, .busreq] s { s with toSurface := t }

/-- R60 to R62, and the registration of ports in R64. Resolution takes the first region that covers the address; unmapped
addresses read 0, and they and read-only regions ignore writes. Registration refuses an overlap, the example of R62 among
them, and keeps the map free of overlaps; in such a map the region of an address is the one that covers it. A port byte is
claimed once, and a device is selected by it alone. -/
def Obligations.MapsAndRegistration : Prop :=
  (∀ (m : MemMap) (r : Region), m.wf →
    (m.register r = none ↔ ∃ q ∈ m, q.low ≤ r.high ∧ r.low ≤ q.high) ∧
    ∀ m', m.register r = some m' → m' = m ++ [r] ∧ m'.wf) ∧
  (∀ (m : MemMap) (a : Word) (r : Region), m.wf → (m.resolve a = some r ↔ r ∈ m ∧ r.low ≤ a ∧ a ≤ r.high)) ∧
  (∀ ro, MemMap.register [⟨0, 100, ro⟩] ⟨100, 200, ro⟩ = none) ∧
  (∀ ro, MemMap.register [⟨0, 99, ro⟩] ⟨100, 200, ro⟩ = some [⟨0, 99, ro⟩, ⟨100, 200, ro⟩]) ∧
  (∀ (m : MemMap) (a : Word) (r : Region),
    MemMap.resolve (r :: m) a = if r.low ≤ a ∧ a ≤ r.high then some r else m.resolve a) ∧
  (∀ (r : Region) a, r.offset a = a - r.low) ∧
  (∀ (s : State) a v, s.cfg.memMap.resolve a = none →
    s.peek a = 0 ∧ SameBut [.bus] s (s.memWrite a v) ∧ Bus s (s.memWrite a v) [.writeMemory a v]) ∧
  (∀ (s : State) a v r, s.cfg.memMap.resolve a = some r → r.readOnly = true →
    SameBut [.bus] s (s.memWrite a v) ∧ Bus s (s.memWrite a v) [.writeMemory a v]) ∧
  (∀ (m : PortMap) p, (m.register p = none ↔ p ∈ m) ∧ ∀ m', m.register p = some m' → m' = m ++ [p]) ∧
  ∀ (s : State) (hi lo : Byte), s.portMapped (joinBytes hi lo) = decide (lo ∈ s.cfg.ports)

/-! ## The whole machine -/

/-- R49, with R48's values: power-on leaves what a reset leaves and clears the latches, and the boundary invariant holds.
That the latches and `int_vector` are clear, as R49 says, where D23 and U1 call them draws, is the model's choice (log entry
27); so is the last M-cycle kind (log entry 12), of which nothing is said. -/
def Obligations.PowerOnState : Prop :=
  Boundary State.reset ∧ State.reset.pc = 0 ∧ State.reset.i = 0 ∧ State.reset.r = 0 ∧ State.reset.im = .mode0 ∧
    State.reset.iff1 = false ∧ State.reset.halted = false ∧ State.reset.mode0Byte = none ∧
    State.reset.nmiLatch = false ∧ State.reset.intLatch = false ∧ State.reset.intVector = none ∧
    State.reset.tTotal = 0 ∧ State.reset.tInstr = 0 ∧ State.reset.kill = false

/-- Every step keeps the boundary invariant: canonical memory, an empty decoder, no line asserted, no kill pending. -/
def Obligations.StepKeepsBoundary : Prop :=
  ∀ s t : State, Boundary s → step s = .next t → Boundary t

/-- R60 to R62: no step, whatever the environment does, changes the parameters, or a byte that is unmapped or read-only. -/
def Obligations.StepKeepsMapAndReadOnlyBytes : Prop :=
  ∀ s t : State, step s = .next t → t.cfg = s.cfg ∧ ∀ a, s.writable a = false → t.peek a = s.peek a

/-- Who writes what (10 R23, R24, R31, R32, R34; 20 R64; 40 R183; 60 R401): an instruction that changes one of these parts is
one of those named, and no instruction touches the parameters, nor the latches, the pins, the counters, kill or the coming
edges but by its bus operations. -/
def Obligations.OnlyNamedInstructionsWrite : Prop :=
  ∀ (i : Instr) (s t : State), exec i s = .next t →
    (t.i ≠ s.i → i = .ldIA) ∧ (t.r ≠ s.r → i = .ldRA) ∧ (t.im ≠ s.im → ∃ k, i = .im k) ∧
    (t.halted ≠ s.halted → i = .halt) ∧ (t.iff2 ≠ s.iff2 → i = .di ∨ i = .ei) ∧
    (t.iff1 ≠ s.iff1 → i = .di ∨ i = .ei ∨ i = .retn ∨ i = .reti) ∧ (t.alt ≠ s.alt → i = .exAfAf ∨ i = .exx) ∧
    (t.main.f ≠ s.main.f → keepsF i = false) ∧ (t.trace.events ≠ s.trace.events → reachesPorts i = true) ∧
    (t.decoder ≠ s.decoder → isPrefixRow i = true) ∧
    t.mode0Byte = s.mode0Byte ∧ t.cfg = s.cfg ∧ ∃ ops, Bus s { t with halted := s.halted } ops

/-- What arrives while a step runs (60 R401, R404, R405, R407, R410; 20 R77): requests may come at any edge. A step of an
instruction consumes one edge for each T-cycle, keeps what arrived, and its check sees it; so does a halted step. An INT
acknowledge answers with the byte that its four edges brought; a request that arrives during an acknowledge stays latched.
When signals are seen, and in which cycles of a step, is the model's choice (log entries 6 and 7). -/
def Obligations.RequestsDuringAStep : Prop :=
  ∀ s : State, RequestsOnly s →
    let edges (k n : Nat) : Edge := ((s.clock.take n).drop k).flatten
    let cycles (ops : List BusOp) : Nat := (ops.map fun op => op.phases.length).sum
    let pushed := [BusOp.writeMemory (s.sp - 1) (hiByte s.pc), .writeMemory (s.sp - 2) (loByte s.pc)]
    let common : List Part :=
      [.nmiLatch, .intLatch, .intVector, .halted, .refreshR, .iff1, .iff2, .ops, .timing, .clock]
    let during (n : Nat) (t : State) : Prop :=
      t.clock = s.clock.drop n ∧ t.tTotal = s.tTotal + BitVec.ofNat 64 n ∧
        (t.nmiLatch = true ↔ Signal.nmi ∈ edges 0 n) ∧ t.halted = false ∧ t.r = bumpR s.r ∧ t.iff1 = false
    (∀ (i : Instr) (left : List Byte), s.halted = false → s.decoder = Decoder.empty →
      decode s.upcoming = .ok (i, left) →
      ∃ u t v, Fetched s.beginStep left u ∧ u.clock = s.clock.drop (cycles u.trace.bus) ∧
        SameBut [.pc, .refreshR, .mode0Byte, .ops, .timing, .clock] (s.beginStep.seen (cycles u.trace.bus)) u ∧
        exec i u = .next t ∧
        (let n := cycles (t.trace.bus.drop u.trace.bus.length)
         t.clock = u.clock.drop n ∧
          SameBut [.halted, .timing, .clock] { t with toSurface := (u.seen n).toSurface } t) ∧
        (let n := Config.extraT i (happens i u)
         v.clock = t.clock.drop n ∧ SameBut [.timing, .clock] (t.seen n) v) ∧
        step s = toOut v.interruptCheck) ∧
    (s.halted = true →
      ∃ u, step s = toOut u.interruptCheck ∧ u.clock = s.clock.drop 4 ∧ u.r = bumpR s.r ∧
        u.trace.bus = [.fetchOpcode s.pc (s.peek s.pc)] ∧ u.tInstr = 4 ∧
        SameBut [.refreshR, .ops, .timing, .clock] (s.seen 4) u) ∧
    (s.nmiLatch = true →
      ∃ t, s.interruptCheck = t ∧ during 10 t ∧ t.pc = 0x0066#16 ∧ t.sp = s.sp - 2 ∧ t.iff2 = s.iff1 ∧
        (t.intLatch = true ↔ s.intLatch = true ∨ Signal.int ∈ edges 0 10) ∧ t.intVector = (s.seen 10).intVector ∧
        StoresWord s t (s.sp - 2) s.pc ∧ Ops s t (.nmiAcknowledge s.pc :: pushed) ∧
        SameBut ([.pc, .sp, .mem] ++ common) s t) ∧
    (s.nmiLatch = false → s.intLatch = true → s.iff1 = true →
      let v := (s.seen 4).intVector.getD s.cfg.intNoVector
      let table := joinBytes s.i v
      let accepted (n : Nat) (t : State) : Prop :=
        during n t ∧ t.iff2 = false ∧ (t.intLatch = true ↔ Signal.int ∈ edges 0 n) ∧
          t.intVector = ({ s with intVector := none }.signals (edges 4 n)).intVector
      ∃ t, s.interruptCheck = t ∧
        match s.im with
        | .mode0 =>
          accepted 4 t ∧ t.mode0Byte = some v ∧ Ops s t [.intAcknowledge v] ∧ SameBut (.mode0Byte :: common) s t
        | .mode1 =>
          accepted 10 t ∧ t.pc = 0x0038#16 ∧ t.sp = s.sp - 2 ∧ StoresWord s t (s.sp - 2) s.pc ∧
            Ops s t (.intAcknowledge v :: pushed) ∧ SameBut ([.pc, .sp, .mem] ++ common) s t
        | .mode2 =>
          accepted 16 t ∧ t.pc = t.peek16 table ∧ t.sp = s.sp - 2 ∧ StoresWord s t (s.sp - 2) s.pc ∧
            Ops s t (.intAcknowledge v :: pushed ++
              [.readMemory table (t.peek table), .readMemory (table + 1) (t.peek (table + 1))]) ∧
            SameBut ([.pc, .sp, .mem] ++ common) s t)
end

