-- ==== Sys2Proof/Laws/State.lean ====
section
/-! SUPPORT. Laws/State: for every update of the state, one lemma for each field it leaves, and the values of the fields it
writes. -/

namespace Sys2Proof.Machine

variable (s : State)

/-! ### setReg -/

@[simp] theorem State.setReg_alt (q : Reg8) (v : Byte) : (s.setReg q v).alt = s.alt := rfl
@[simp] theorem State.setReg_ix (q : Reg8) (v : Byte) : (s.setReg q v).ix = s.ix := rfl
@[simp] theorem State.setReg_iy (q : Reg8) (v : Byte) : (s.setReg q v).iy = s.iy := rfl
@[simp] theorem State.setReg_sp (q : Reg8) (v : Byte) : (s.setReg q v).sp = s.sp := rfl
@[simp] theorem State.setReg_pc (q : Reg8) (v : Byte) : (s.setReg q v).pc = s.pc := rfl
@[simp] theorem State.setReg_i (q : Reg8) (v : Byte) : (s.setReg q v).i = s.i := rfl
@[simp] theorem State.setReg_r (q : Reg8) (v : Byte) : (s.setReg q v).r = s.r := rfl
@[simp] theorem State.setReg_iff1 (q : Reg8) (v : Byte) : (s.setReg q v).iff1 = s.iff1 := rfl
@[simp] theorem State.setReg_iff2 (q : Reg8) (v : Byte) : (s.setReg q v).iff2 = s.iff2 := rfl
@[simp] theorem State.setReg_im (q : Reg8) (v : Byte) : (s.setReg q v).im = s.im := rfl
@[simp] theorem State.setReg_mode0Byte (q : Reg8) (v : Byte) : (s.setReg q v).mode0Byte = s.mode0Byte := rfl
@[simp] theorem State.setReg_decoder (q : Reg8) (v : Byte) : (s.setReg q v).decoder = s.decoder := rfl
@[simp] theorem State.setReg_mem (q : Reg8) (v : Byte) : (s.setReg q v).mem = s.mem := rfl
@[simp] theorem State.setReg_cfg (q : Reg8) (v : Byte) : (s.setReg q v).cfg = s.cfg := rfl
@[simp] theorem State.setReg_draws (q : Reg8) (v : Byte) : (s.setReg q v).draws = s.draws := rfl
@[simp] theorem State.setReg_portAnswers (q : Reg8) (v : Byte) : (s.setReg q v).portAnswers = s.portAnswers := rfl
@[simp] theorem State.setReg_trace (q : Reg8) (v : Byte) : (s.setReg q v).trace = s.trace := rfl
@[simp] theorem State.setReg_toSurface (q : Reg8) (v : Byte) : (s.setReg q v).toSurface = s.toSurface := rfl

@[simp] theorem State.setReg_peek (q : Reg8) (v : Byte) (k : Word) : (s.setReg q v).peek k = s.peek k := rfl
@[simp] theorem State.setReg_writable (q : Reg8) (v : Byte) (k : Word) : (s.setReg q v).writable k = s.writable k := rfl
@[simp] theorem State.setReg_idx (q : Reg8) (v : Byte) (g : Idx) : (s.setReg q v).idx g = s.idx g := by cases g <;> rfl

/-! ### setPair -/

@[simp] theorem State.setPair_alt (q : Rp) (v : Word) : (s.setPair q v).alt = s.alt := by cases q <;> rfl
@[simp] theorem State.setPair_ix (q : Rp) (v : Word) : (s.setPair q v).ix = s.ix := by cases q <;> rfl
@[simp] theorem State.setPair_iy (q : Rp) (v : Word) : (s.setPair q v).iy = s.iy := by cases q <;> rfl
@[simp] theorem State.setPair_pc (q : Rp) (v : Word) : (s.setPair q v).pc = s.pc := by cases q <;> rfl
@[simp] theorem State.setPair_i (q : Rp) (v : Word) : (s.setPair q v).i = s.i := by cases q <;> rfl
@[simp] theorem State.setPair_r (q : Rp) (v : Word) : (s.setPair q v).r = s.r := by cases q <;> rfl
@[simp] theorem State.setPair_iff1 (q : Rp) (v : Word) : (s.setPair q v).iff1 = s.iff1 := by cases q <;> rfl
@[simp] theorem State.setPair_iff2 (q : Rp) (v : Word) : (s.setPair q v).iff2 = s.iff2 := by cases q <;> rfl
@[simp] theorem State.setPair_im (q : Rp) (v : Word) : (s.setPair q v).im = s.im := by cases q <;> rfl
@[simp] theorem State.setPair_mode0Byte (q : Rp) (v : Word) : (s.setPair q v).mode0Byte = s.mode0Byte := by cases q <;> rfl
@[simp] theorem State.setPair_decoder (q : Rp) (v : Word) : (s.setPair q v).decoder = s.decoder := by cases q <;> rfl
@[simp] theorem State.setPair_mem (q : Rp) (v : Word) : (s.setPair q v).mem = s.mem := by cases q <;> rfl
@[simp] theorem State.setPair_cfg (q : Rp) (v : Word) : (s.setPair q v).cfg = s.cfg := by cases q <;> rfl
@[simp] theorem State.setPair_draws (q : Rp) (v : Word) : (s.setPair q v).draws = s.draws := by cases q <;> rfl
@[simp] theorem State.setPair_portAnswers (q : Rp) (v : Word) : (s.setPair q v).portAnswers = s.portAnswers := by cases q <;> rfl
@[simp] theorem State.setPair_trace (q : Rp) (v : Word) : (s.setPair q v).trace = s.trace := by cases q <;> rfl
@[simp] theorem State.setPair_toSurface (q : Rp) (v : Word) : (s.setPair q v).toSurface = s.toSurface := by cases q <;> rfl

@[simp] theorem State.setPair_peek (q : Rp) (v : Word) (k : Word) : (s.setPair q v).peek k = s.peek k := by cases q <;> rfl
@[simp] theorem State.setPair_writable (q : Rp) (v : Word) (k : Word) : (s.setPair q v).writable k = s.writable k := by cases q <;> rfl
@[simp] theorem State.setPair_idx (q : Rp) (v : Word) (g : Idx) : (s.setPair q v).idx g = s.idx g := by cases q <;> cases g <;> rfl

/-! ### setIdx -/

@[simp] theorem State.setIdx_main (x : Idx) (v : Word) : (s.setIdx x v).main = s.main := by cases x <;> rfl
@[simp] theorem State.setIdx_alt (x : Idx) (v : Word) : (s.setIdx x v).alt = s.alt := by cases x <;> rfl
@[simp] theorem State.setIdx_sp (x : Idx) (v : Word) : (s.setIdx x v).sp = s.sp := by cases x <;> rfl
@[simp] theorem State.setIdx_pc (x : Idx) (v : Word) : (s.setIdx x v).pc = s.pc := by cases x <;> rfl
@[simp] theorem State.setIdx_i (x : Idx) (v : Word) : (s.setIdx x v).i = s.i := by cases x <;> rfl
@[simp] theorem State.setIdx_r (x : Idx) (v : Word) : (s.setIdx x v).r = s.r := by cases x <;> rfl
@[simp] theorem State.setIdx_iff1 (x : Idx) (v : Word) : (s.setIdx x v).iff1 = s.iff1 := by cases x <;> rfl
@[simp] theorem State.setIdx_iff2 (x : Idx) (v : Word) : (s.setIdx x v).iff2 = s.iff2 := by cases x <;> rfl
@[simp] theorem State.setIdx_im (x : Idx) (v : Word) : (s.setIdx x v).im = s.im := by cases x <;> rfl
@[simp] theorem State.setIdx_mode0Byte (x : Idx) (v : Word) : (s.setIdx x v).mode0Byte = s.mode0Byte := by cases x <;> rfl
@[simp] theorem State.setIdx_decoder (x : Idx) (v : Word) : (s.setIdx x v).decoder = s.decoder := by cases x <;> rfl
@[simp] theorem State.setIdx_mem (x : Idx) (v : Word) : (s.setIdx x v).mem = s.mem := by cases x <;> rfl
@[simp] theorem State.setIdx_cfg (x : Idx) (v : Word) : (s.setIdx x v).cfg = s.cfg := by cases x <;> rfl
@[simp] theorem State.setIdx_draws (x : Idx) (v : Word) : (s.setIdx x v).draws = s.draws := by cases x <;> rfl
@[simp] theorem State.setIdx_portAnswers (x : Idx) (v : Word) : (s.setIdx x v).portAnswers = s.portAnswers := by cases x <;> rfl
@[simp] theorem State.setIdx_trace (x : Idx) (v : Word) : (s.setIdx x v).trace = s.trace := by cases x <;> rfl
@[simp] theorem State.setIdx_toSurface (x : Idx) (v : Word) : (s.setIdx x v).toSurface = s.toSurface := by cases x <;> rfl

@[simp] theorem State.setIdx_peek (x : Idx) (v : Word) (k : Word) : (s.setIdx x v).peek k = s.peek k := by cases x <;> rfl
@[simp] theorem State.setIdx_writable (x : Idx) (v : Word) (k : Word) : (s.setIdx x v).writable k = s.writable k := by cases x <;> rfl
@[simp] theorem State.setIdx_reg (x : Idx) (v : Word) (g : Reg8) : (s.setIdx x v).reg g = s.reg g := by cases x <;> rfl
@[simp] theorem State.setIdx_pair (x : Idx) (v : Word) (g : Rp) : (s.setIdx x v).pair g = s.pair g := by cases x <;> cases g <;> rfl

/-! ### setHalf -/

@[simp] theorem State.setHalf_main (x : Idx) (h : Half) (v : Byte) : (s.setHalf x h v).main = s.main := by cases x <;> cases h <;> rfl
@[simp] theorem State.setHalf_alt (x : Idx) (h : Half) (v : Byte) : (s.setHalf x h v).alt = s.alt := by cases x <;> cases h <;> rfl
@[simp] theorem State.setHalf_sp (x : Idx) (h : Half) (v : Byte) : (s.setHalf x h v).sp = s.sp := by cases x <;> cases h <;> rfl
@[simp] theorem State.setHalf_pc (x : Idx) (h : Half) (v : Byte) : (s.setHalf x h v).pc = s.pc := by cases x <;> cases h <;> rfl
@[simp] theorem State.setHalf_i (x : Idx) (h : Half) (v : Byte) : (s.setHalf x h v).i = s.i := by cases x <;> cases h <;> rfl
@[simp] theorem State.setHalf_r (x : Idx) (h : Half) (v : Byte) : (s.setHalf x h v).r = s.r := by cases x <;> cases h <;> rfl
@[simp] theorem State.setHalf_iff1 (x : Idx) (h : Half) (v : Byte) : (s.setHalf x h v).iff1 = s.iff1 := by cases x <;> cases h <;> rfl
@[simp] theorem State.setHalf_iff2 (x : Idx) (h : Half) (v : Byte) : (s.setHalf x h v).iff2 = s.iff2 := by cases x <;> cases h <;> rfl
@[simp] theorem State.setHalf_im (x : Idx) (h : Half) (v : Byte) : (s.setHalf x h v).im = s.im := by cases x <;> cases h <;> rfl
@[simp] theorem State.setHalf_mode0Byte (x : Idx) (h : Half) (v : Byte) : (s.setHalf x h v).mode0Byte = s.mode0Byte := by cases x <;> cases h <;> rfl
@[simp] theorem State.setHalf_decoder (x : Idx) (h : Half) (v : Byte) : (s.setHalf x h v).decoder = s.decoder := by cases x <;> cases h <;> rfl
@[simp] theorem State.setHalf_mem (x : Idx) (h : Half) (v : Byte) : (s.setHalf x h v).mem = s.mem := by cases x <;> cases h <;> rfl
@[simp] theorem State.setHalf_cfg (x : Idx) (h : Half) (v : Byte) : (s.setHalf x h v).cfg = s.cfg := by cases x <;> cases h <;> rfl
@[simp] theorem State.setHalf_draws (x : Idx) (h : Half) (v : Byte) : (s.setHalf x h v).draws = s.draws := by cases x <;> cases h <;> rfl
@[simp] theorem State.setHalf_portAnswers (x : Idx) (h : Half) (v : Byte) : (s.setHalf x h v).portAnswers = s.portAnswers := by cases x <;> cases h <;> rfl
@[simp] theorem State.setHalf_trace (x : Idx) (h : Half) (v : Byte) : (s.setHalf x h v).trace = s.trace := by cases x <;> cases h <;> rfl
@[simp] theorem State.setHalf_toSurface (x : Idx) (h : Half) (v : Byte) : (s.setHalf x h v).toSurface = s.toSurface := by cases x <;> cases h <;> rfl

@[simp] theorem State.setHalf_peek (x : Idx) (h : Half) (v : Byte) (k : Word) : (s.setHalf x h v).peek k = s.peek k := by cases x <;> cases h <;> rfl
@[simp] theorem State.setHalf_writable (x : Idx) (h : Half) (v : Byte) (k : Word) : (s.setHalf x h v).writable k = s.writable k := by cases x <;> cases h <;> rfl
@[simp] theorem State.setHalf_reg (x : Idx) (h : Half) (v : Byte) (g : Reg8) : (s.setHalf x h v).reg g = s.reg g := by cases x <;> cases h <;> rfl
@[simp] theorem State.setHalf_pair (x : Idx) (h : Half) (v : Byte) (g : Rp) : (s.setHalf x h v).pair g = s.pair g := by cases x <;> cases h <;> cases g <;> rfl

/-! ### setPc -/

@[simp] theorem State.setPc_main (v : Word) : (s.setPc v).main = s.main := rfl
@[simp] theorem State.setPc_alt (v : Word) : (s.setPc v).alt = s.alt := rfl
@[simp] theorem State.setPc_ix (v : Word) : (s.setPc v).ix = s.ix := rfl
@[simp] theorem State.setPc_iy (v : Word) : (s.setPc v).iy = s.iy := rfl
@[simp] theorem State.setPc_sp (v : Word) : (s.setPc v).sp = s.sp := rfl
@[simp] theorem State.setPc_i (v : Word) : (s.setPc v).i = s.i := rfl
@[simp] theorem State.setPc_r (v : Word) : (s.setPc v).r = s.r := rfl
@[simp] theorem State.setPc_iff1 (v : Word) : (s.setPc v).iff1 = s.iff1 := rfl
@[simp] theorem State.setPc_iff2 (v : Word) : (s.setPc v).iff2 = s.iff2 := rfl
@[simp] theorem State.setPc_im (v : Word) : (s.setPc v).im = s.im := rfl
@[simp] theorem State.setPc_mode0Byte (v : Word) : (s.setPc v).mode0Byte = s.mode0Byte := rfl
@[simp] theorem State.setPc_decoder (v : Word) : (s.setPc v).decoder = s.decoder := rfl
@[simp] theorem State.setPc_mem (v : Word) : (s.setPc v).mem = s.mem := rfl
@[simp] theorem State.setPc_cfg (v : Word) : (s.setPc v).cfg = s.cfg := rfl
@[simp] theorem State.setPc_draws (v : Word) : (s.setPc v).draws = s.draws := rfl
@[simp] theorem State.setPc_portAnswers (v : Word) : (s.setPc v).portAnswers = s.portAnswers := rfl
@[simp] theorem State.setPc_trace (v : Word) : (s.setPc v).trace = s.trace := rfl
@[simp] theorem State.setPc_toSurface (v : Word) : (s.setPc v).toSurface = s.toSurface := rfl

@[simp] theorem State.setPc_peek (v : Word) (k : Word) : (s.setPc v).peek k = s.peek k := rfl
@[simp] theorem State.setPc_writable (v : Word) (k : Word) : (s.setPc v).writable k = s.writable k := rfl
@[simp] theorem State.setPc_reg (v : Word) (g : Reg8) : (s.setPc v).reg g = s.reg g := rfl
@[simp] theorem State.setPc_pair (v : Word) (g : Rp) : (s.setPc v).pair g = s.pair g := by cases g <;> rfl
@[simp] theorem State.setPc_idx (v : Word) (g : Idx) : (s.setPc v).idx g = s.idx g := by cases g <;> rfl

/-! ### incR -/

@[simp] theorem State.incR_main : s.incR.main = s.main := rfl
@[simp] theorem State.incR_alt : s.incR.alt = s.alt := rfl
@[simp] theorem State.incR_ix : s.incR.ix = s.ix := rfl
@[simp] theorem State.incR_iy : s.incR.iy = s.iy := rfl
@[simp] theorem State.incR_sp : s.incR.sp = s.sp := rfl
@[simp] theorem State.incR_pc : s.incR.pc = s.pc := rfl
@[simp] theorem State.incR_i : s.incR.i = s.i := rfl
@[simp] theorem State.incR_iff1 : s.incR.iff1 = s.iff1 := rfl
@[simp] theorem State.incR_iff2 : s.incR.iff2 = s.iff2 := rfl
@[simp] theorem State.incR_im : s.incR.im = s.im := rfl
@[simp] theorem State.incR_mode0Byte : s.incR.mode0Byte = s.mode0Byte := rfl
@[simp] theorem State.incR_decoder : s.incR.decoder = s.decoder := rfl
@[simp] theorem State.incR_mem : s.incR.mem = s.mem := rfl
@[simp] theorem State.incR_cfg : s.incR.cfg = s.cfg := rfl
@[simp] theorem State.incR_draws : s.incR.draws = s.draws := rfl
@[simp] theorem State.incR_portAnswers : s.incR.portAnswers = s.portAnswers := rfl
@[simp] theorem State.incR_trace : s.incR.trace = s.trace := rfl
@[simp] theorem State.incR_toSurface : s.incR.toSurface = s.toSurface := rfl

@[simp] theorem State.incR_peek (k : Word) : s.incR.peek k = s.peek k := rfl
@[simp] theorem State.incR_writable (k : Word) : s.incR.writable k = s.writable k := rfl
@[simp] theorem State.incR_reg (g : Reg8) : s.incR.reg g = s.reg g := rfl
@[simp] theorem State.incR_pair (g : Rp) : s.incR.pair g = s.pair g := by cases g <;> rfl
@[simp] theorem State.incR_idx (g : Idx) : s.incR.idx g = s.idx g := by cases g <;> rfl

/-! ### record -/

@[simp] theorem State.record_main (o : BusOp) : (s.record o).main = s.main := rfl
@[simp] theorem State.record_alt (o : BusOp) : (s.record o).alt = s.alt := rfl
@[simp] theorem State.record_ix (o : BusOp) : (s.record o).ix = s.ix := rfl
@[simp] theorem State.record_iy (o : BusOp) : (s.record o).iy = s.iy := rfl
@[simp] theorem State.record_sp (o : BusOp) : (s.record o).sp = s.sp := rfl
@[simp] theorem State.record_pc (o : BusOp) : (s.record o).pc = s.pc := rfl
@[simp] theorem State.record_i (o : BusOp) : (s.record o).i = s.i := rfl
@[simp] theorem State.record_r (o : BusOp) : (s.record o).r = s.r := rfl
@[simp] theorem State.record_iff1 (o : BusOp) : (s.record o).iff1 = s.iff1 := rfl
@[simp] theorem State.record_iff2 (o : BusOp) : (s.record o).iff2 = s.iff2 := rfl
@[simp] theorem State.record_im (o : BusOp) : (s.record o).im = s.im := rfl
@[simp] theorem State.record_mode0Byte (o : BusOp) : (s.record o).mode0Byte = s.mode0Byte := rfl
@[simp] theorem State.record_decoder (o : BusOp) : (s.record o).decoder = s.decoder := rfl
@[simp] theorem State.record_mem (o : BusOp) : (s.record o).mem = s.mem := rfl
@[simp] theorem State.record_cfg (o : BusOp) : (s.record o).cfg = s.cfg := rfl
@[simp] theorem State.record_draws (o : BusOp) : (s.record o).draws = s.draws := rfl
@[simp] theorem State.record_portAnswers (o : BusOp) : (s.record o).portAnswers = s.portAnswers := rfl
@[simp] theorem State.record_toSurface (o : BusOp) : (s.record o).toSurface = s.toSurface := rfl

@[simp] theorem State.record_peek (o : BusOp) (k : Word) : (s.record o).peek k = s.peek k := rfl
@[simp] theorem State.record_writable (o : BusOp) (k : Word) : (s.record o).writable k = s.writable k := rfl
@[simp] theorem State.record_reg (o : BusOp) (g : Reg8) : (s.record o).reg g = s.reg g := rfl
@[simp] theorem State.record_pair (o : BusOp) (g : Rp) : (s.record o).pair g = s.pair g := by cases g <;> rfl
@[simp] theorem State.record_idx (o : BusOp) (g : Idx) : (s.record o).idx g = s.idx g := by cases g <;> rfl

/-! ### cycle -/

@[simp] theorem State.cycle_main (y : BusCycle) : (s.cycle y).main = s.main := rfl
@[simp] theorem State.cycle_alt (y : BusCycle) : (s.cycle y).alt = s.alt := rfl
@[simp] theorem State.cycle_ix (y : BusCycle) : (s.cycle y).ix = s.ix := rfl
@[simp] theorem State.cycle_iy (y : BusCycle) : (s.cycle y).iy = s.iy := rfl
@[simp] theorem State.cycle_sp (y : BusCycle) : (s.cycle y).sp = s.sp := rfl
@[simp] theorem State.cycle_pc (y : BusCycle) : (s.cycle y).pc = s.pc := rfl
@[simp] theorem State.cycle_i (y : BusCycle) : (s.cycle y).i = s.i := rfl
@[simp] theorem State.cycle_r (y : BusCycle) : (s.cycle y).r = s.r := rfl
@[simp] theorem State.cycle_iff1 (y : BusCycle) : (s.cycle y).iff1 = s.iff1 := rfl
@[simp] theorem State.cycle_iff2 (y : BusCycle) : (s.cycle y).iff2 = s.iff2 := rfl
@[simp] theorem State.cycle_im (y : BusCycle) : (s.cycle y).im = s.im := rfl
@[simp] theorem State.cycle_mode0Byte (y : BusCycle) : (s.cycle y).mode0Byte = s.mode0Byte := rfl
@[simp] theorem State.cycle_decoder (y : BusCycle) : (s.cycle y).decoder = s.decoder := rfl
@[simp] theorem State.cycle_mem (y : BusCycle) : (s.cycle y).mem = s.mem := rfl
@[simp] theorem State.cycle_cfg (y : BusCycle) : (s.cycle y).cfg = s.cfg := rfl
@[simp] theorem State.cycle_draws (y : BusCycle) : (s.cycle y).draws = s.draws := rfl
@[simp] theorem State.cycle_portAnswers (y : BusCycle) : (s.cycle y).portAnswers = s.portAnswers := rfl
@[simp] theorem State.cycle_trace (y : BusCycle) : (s.cycle y).trace = s.trace := rfl

@[simp] theorem State.cycle_peek (y : BusCycle) (k : Word) : (s.cycle y).peek k = s.peek k := rfl
@[simp] theorem State.cycle_writable (y : BusCycle) (k : Word) : (s.cycle y).writable k = s.writable k := rfl
@[simp] theorem State.cycle_reg (y : BusCycle) (g : Reg8) : (s.cycle y).reg g = s.reg g := rfl
@[simp] theorem State.cycle_pair (y : BusCycle) (g : Rp) : (s.cycle y).pair g = s.pair g := by cases g <;> rfl
@[simp] theorem State.cycle_idx (y : BusCycle) (g : Idx) : (s.cycle y).idx g = s.idx g := by cases g <;> rfl

/-! ### release -/

@[simp] theorem State.release_main : s.release.main = s.main := rfl
@[simp] theorem State.release_alt : s.release.alt = s.alt := rfl
@[simp] theorem State.release_ix : s.release.ix = s.ix := rfl
@[simp] theorem State.release_iy : s.release.iy = s.iy := rfl
@[simp] theorem State.release_sp : s.release.sp = s.sp := rfl
@[simp] theorem State.release_pc : s.release.pc = s.pc := rfl
@[simp] theorem State.release_i : s.release.i = s.i := rfl
@[simp] theorem State.release_r : s.release.r = s.r := rfl
@[simp] theorem State.release_iff1 : s.release.iff1 = s.iff1 := rfl
@[simp] theorem State.release_iff2 : s.release.iff2 = s.iff2 := rfl
@[simp] theorem State.release_im : s.release.im = s.im := rfl
@[simp] theorem State.release_mode0Byte : s.release.mode0Byte = s.mode0Byte := rfl
@[simp] theorem State.release_decoder : s.release.decoder = s.decoder := rfl
@[simp] theorem State.release_mem : s.release.mem = s.mem := rfl
@[simp] theorem State.release_cfg : s.release.cfg = s.cfg := rfl
@[simp] theorem State.release_draws : s.release.draws = s.draws := rfl
@[simp] theorem State.release_portAnswers : s.release.portAnswers = s.portAnswers := rfl
@[simp] theorem State.release_trace : s.release.trace = s.trace := rfl

@[simp] theorem State.release_peek (k : Word) : s.release.peek k = s.peek k := rfl
@[simp] theorem State.release_writable (k : Word) : s.release.writable k = s.writable k := rfl
@[simp] theorem State.release_reg (g : Reg8) : s.release.reg g = s.reg g := rfl
@[simp] theorem State.release_pair (g : Rp) : s.release.pair g = s.pair g := by cases g <;> rfl
@[simp] theorem State.release_idx (g : Idx) : s.release.idx g = s.idx g := by cases g <;> rfl

/-! ### internal -/

@[simp] theorem State.internal_main (n : Nat) : (s.internal n).main = s.main := rfl
@[simp] theorem State.internal_alt (n : Nat) : (s.internal n).alt = s.alt := rfl
@[simp] theorem State.internal_ix (n : Nat) : (s.internal n).ix = s.ix := rfl
@[simp] theorem State.internal_iy (n : Nat) : (s.internal n).iy = s.iy := rfl
@[simp] theorem State.internal_sp (n : Nat) : (s.internal n).sp = s.sp := rfl
@[simp] theorem State.internal_pc (n : Nat) : (s.internal n).pc = s.pc := rfl
@[simp] theorem State.internal_i (n : Nat) : (s.internal n).i = s.i := rfl
@[simp] theorem State.internal_r (n : Nat) : (s.internal n).r = s.r := rfl
@[simp] theorem State.internal_iff1 (n : Nat) : (s.internal n).iff1 = s.iff1 := rfl
@[simp] theorem State.internal_iff2 (n : Nat) : (s.internal n).iff2 = s.iff2 := rfl
@[simp] theorem State.internal_im (n : Nat) : (s.internal n).im = s.im := rfl
@[simp] theorem State.internal_mode0Byte (n : Nat) : (s.internal n).mode0Byte = s.mode0Byte := rfl
@[simp] theorem State.internal_decoder (n : Nat) : (s.internal n).decoder = s.decoder := rfl
@[simp] theorem State.internal_mem (n : Nat) : (s.internal n).mem = s.mem := rfl
@[simp] theorem State.internal_cfg (n : Nat) : (s.internal n).cfg = s.cfg := rfl
@[simp] theorem State.internal_draws (n : Nat) : (s.internal n).draws = s.draws := rfl
@[simp] theorem State.internal_portAnswers (n : Nat) : (s.internal n).portAnswers = s.portAnswers := rfl
@[simp] theorem State.internal_trace (n : Nat) : (s.internal n).trace = s.trace := rfl

@[simp] theorem State.internal_peek (n : Nat) (k : Word) : (s.internal n).peek k = s.peek k := rfl
@[simp] theorem State.internal_writable (n : Nat) (k : Word) : (s.internal n).writable k = s.writable k := rfl
@[simp] theorem State.internal_reg (n : Nat) (g : Reg8) : (s.internal n).reg g = s.reg g := rfl
@[simp] theorem State.internal_pair (n : Nat) (g : Rp) : (s.internal n).pair g = s.pair g := by cases g <;> rfl
@[simp] theorem State.internal_idx (n : Nat) (g : Idx) : (s.internal n).idx g = s.idx g := by cases g <;> rfl

/-! ### signal -/

@[simp] theorem State.signal_main (x : Signal) : (s.signal x).main = s.main := rfl
@[simp] theorem State.signal_alt (x : Signal) : (s.signal x).alt = s.alt := rfl
@[simp] theorem State.signal_ix (x : Signal) : (s.signal x).ix = s.ix := rfl
@[simp] theorem State.signal_iy (x : Signal) : (s.signal x).iy = s.iy := rfl
@[simp] theorem State.signal_sp (x : Signal) : (s.signal x).sp = s.sp := rfl
@[simp] theorem State.signal_pc (x : Signal) : (s.signal x).pc = s.pc := rfl
@[simp] theorem State.signal_i (x : Signal) : (s.signal x).i = s.i := rfl
@[simp] theorem State.signal_r (x : Signal) : (s.signal x).r = s.r := rfl
@[simp] theorem State.signal_iff1 (x : Signal) : (s.signal x).iff1 = s.iff1 := rfl
@[simp] theorem State.signal_iff2 (x : Signal) : (s.signal x).iff2 = s.iff2 := rfl
@[simp] theorem State.signal_im (x : Signal) : (s.signal x).im = s.im := rfl
@[simp] theorem State.signal_mode0Byte (x : Signal) : (s.signal x).mode0Byte = s.mode0Byte := rfl
@[simp] theorem State.signal_decoder (x : Signal) : (s.signal x).decoder = s.decoder := rfl
@[simp] theorem State.signal_mem (x : Signal) : (s.signal x).mem = s.mem := rfl
@[simp] theorem State.signal_cfg (x : Signal) : (s.signal x).cfg = s.cfg := rfl
@[simp] theorem State.signal_draws (x : Signal) : (s.signal x).draws = s.draws := rfl
@[simp] theorem State.signal_portAnswers (x : Signal) : (s.signal x).portAnswers = s.portAnswers := rfl
@[simp] theorem State.signal_trace (x : Signal) : (s.signal x).trace = s.trace := rfl

@[simp] theorem State.signal_peek (x : Signal) (k : Word) : (s.signal x).peek k = s.peek k := rfl
@[simp] theorem State.signal_writable (x : Signal) (k : Word) : (s.signal x).writable k = s.writable k := rfl
@[simp] theorem State.signal_reg (x : Signal) (g : Reg8) : (s.signal x).reg g = s.reg g := rfl
@[simp] theorem State.signal_pair (x : Signal) (g : Rp) : (s.signal x).pair g = s.pair g := by cases g <;> rfl
@[simp] theorem State.signal_idx (x : Signal) (g : Idx) : (s.signal x).idx g = s.idx g := by cases g <;> rfl

/-! ### signals -/

@[simp] theorem State.signals_main (e : Edge) : (s.signals e).main = s.main := rfl
@[simp] theorem State.signals_alt (e : Edge) : (s.signals e).alt = s.alt := rfl
@[simp] theorem State.signals_ix (e : Edge) : (s.signals e).ix = s.ix := rfl
@[simp] theorem State.signals_iy (e : Edge) : (s.signals e).iy = s.iy := rfl
@[simp] theorem State.signals_sp (e : Edge) : (s.signals e).sp = s.sp := rfl
@[simp] theorem State.signals_pc (e : Edge) : (s.signals e).pc = s.pc := rfl
@[simp] theorem State.signals_i (e : Edge) : (s.signals e).i = s.i := rfl
@[simp] theorem State.signals_r (e : Edge) : (s.signals e).r = s.r := rfl
@[simp] theorem State.signals_iff1 (e : Edge) : (s.signals e).iff1 = s.iff1 := rfl
@[simp] theorem State.signals_iff2 (e : Edge) : (s.signals e).iff2 = s.iff2 := rfl
@[simp] theorem State.signals_im (e : Edge) : (s.signals e).im = s.im := rfl
@[simp] theorem State.signals_mode0Byte (e : Edge) : (s.signals e).mode0Byte = s.mode0Byte := rfl
@[simp] theorem State.signals_decoder (e : Edge) : (s.signals e).decoder = s.decoder := rfl
@[simp] theorem State.signals_mem (e : Edge) : (s.signals e).mem = s.mem := rfl
@[simp] theorem State.signals_cfg (e : Edge) : (s.signals e).cfg = s.cfg := rfl
@[simp] theorem State.signals_draws (e : Edge) : (s.signals e).draws = s.draws := rfl
@[simp] theorem State.signals_portAnswers (e : Edge) : (s.signals e).portAnswers = s.portAnswers := rfl
@[simp] theorem State.signals_trace (e : Edge) : (s.signals e).trace = s.trace := rfl

@[simp] theorem State.signals_peek (e : Edge) (k : Word) : (s.signals e).peek k = s.peek k := rfl
@[simp] theorem State.signals_writable (e : Edge) (k : Word) : (s.signals e).writable k = s.writable k := rfl
@[simp] theorem State.signals_reg (e : Edge) (g : Reg8) : (s.signals e).reg g = s.reg g := rfl
@[simp] theorem State.signals_pair (e : Edge) (g : Rp) : (s.signals e).pair g = s.pair g := by cases g <;> rfl
@[simp] theorem State.signals_idx (e : Edge) (g : Idx) : (s.signals e).idx g = s.idx g := by cases g <;> rfl

/-! ### memRead -/

@[simp] theorem State.memRead_main (a : Word) : (s.memRead a).2.main = s.main := rfl
@[simp] theorem State.memRead_alt (a : Word) : (s.memRead a).2.alt = s.alt := rfl
@[simp] theorem State.memRead_ix (a : Word) : (s.memRead a).2.ix = s.ix := rfl
@[simp] theorem State.memRead_iy (a : Word) : (s.memRead a).2.iy = s.iy := rfl
@[simp] theorem State.memRead_sp (a : Word) : (s.memRead a).2.sp = s.sp := rfl
@[simp] theorem State.memRead_pc (a : Word) : (s.memRead a).2.pc = s.pc := rfl
@[simp] theorem State.memRead_i (a : Word) : (s.memRead a).2.i = s.i := rfl
@[simp] theorem State.memRead_r (a : Word) : (s.memRead a).2.r = s.r := rfl
@[simp] theorem State.memRead_iff1 (a : Word) : (s.memRead a).2.iff1 = s.iff1 := rfl
@[simp] theorem State.memRead_iff2 (a : Word) : (s.memRead a).2.iff2 = s.iff2 := rfl
@[simp] theorem State.memRead_im (a : Word) : (s.memRead a).2.im = s.im := rfl
@[simp] theorem State.memRead_mode0Byte (a : Word) : (s.memRead a).2.mode0Byte = s.mode0Byte := rfl
@[simp] theorem State.memRead_decoder (a : Word) : (s.memRead a).2.decoder = s.decoder := rfl
@[simp] theorem State.memRead_mem (a : Word) : (s.memRead a).2.mem = s.mem := rfl
@[simp] theorem State.memRead_cfg (a : Word) : (s.memRead a).2.cfg = s.cfg := rfl
@[simp] theorem State.memRead_draws (a : Word) : (s.memRead a).2.draws = s.draws := rfl
@[simp] theorem State.memRead_portAnswers (a : Word) : (s.memRead a).2.portAnswers = s.portAnswers := rfl

@[simp] theorem State.memRead_peek (a : Word) (k : Word) : (s.memRead a).2.peek k = s.peek k := rfl
@[simp] theorem State.memRead_writable (a : Word) (k : Word) : (s.memRead a).2.writable k = s.writable k := rfl
@[simp] theorem State.memRead_reg (a : Word) (g : Reg8) : (s.memRead a).2.reg g = s.reg g := rfl
@[simp] theorem State.memRead_pair (a : Word) (g : Rp) : (s.memRead a).2.pair g = s.pair g := by cases g <;> rfl
@[simp] theorem State.memRead_idx (a : Word) (g : Idx) : (s.memRead a).2.idx g = s.idx g := by cases g <;> rfl

/-! ### memWrite -/

@[simp] theorem State.memWrite_main (a : Word) (v : Byte) : (s.memWrite a v).main = s.main := rfl
@[simp] theorem State.memWrite_alt (a : Word) (v : Byte) : (s.memWrite a v).alt = s.alt := rfl
@[simp] theorem State.memWrite_ix (a : Word) (v : Byte) : (s.memWrite a v).ix = s.ix := rfl
@[simp] theorem State.memWrite_iy (a : Word) (v : Byte) : (s.memWrite a v).iy = s.iy := rfl
@[simp] theorem State.memWrite_sp (a : Word) (v : Byte) : (s.memWrite a v).sp = s.sp := rfl
@[simp] theorem State.memWrite_pc (a : Word) (v : Byte) : (s.memWrite a v).pc = s.pc := rfl
@[simp] theorem State.memWrite_i (a : Word) (v : Byte) : (s.memWrite a v).i = s.i := rfl
@[simp] theorem State.memWrite_r (a : Word) (v : Byte) : (s.memWrite a v).r = s.r := rfl
@[simp] theorem State.memWrite_iff1 (a : Word) (v : Byte) : (s.memWrite a v).iff1 = s.iff1 := rfl
@[simp] theorem State.memWrite_iff2 (a : Word) (v : Byte) : (s.memWrite a v).iff2 = s.iff2 := rfl
@[simp] theorem State.memWrite_im (a : Word) (v : Byte) : (s.memWrite a v).im = s.im := rfl
@[simp] theorem State.memWrite_mode0Byte (a : Word) (v : Byte) : (s.memWrite a v).mode0Byte = s.mode0Byte := rfl
@[simp] theorem State.memWrite_decoder (a : Word) (v : Byte) : (s.memWrite a v).decoder = s.decoder := rfl
@[simp] theorem State.memWrite_cfg (a : Word) (v : Byte) : (s.memWrite a v).cfg = s.cfg := rfl
@[simp] theorem State.memWrite_draws (a : Word) (v : Byte) : (s.memWrite a v).draws = s.draws := rfl
@[simp] theorem State.memWrite_portAnswers (a : Word) (v : Byte) : (s.memWrite a v).portAnswers = s.portAnswers := rfl

@[simp] theorem State.memWrite_writable (a : Word) (v : Byte) (k : Word) : (s.memWrite a v).writable k = s.writable k := rfl
@[simp] theorem State.memWrite_reg (a : Word) (v : Byte) (g : Reg8) : (s.memWrite a v).reg g = s.reg g := rfl
@[simp] theorem State.memWrite_pair (a : Word) (v : Byte) (g : Rp) : (s.memWrite a v).pair g = s.pair g := by cases g <;> rfl
@[simp] theorem State.memWrite_idx (a : Word) (v : Byte) (g : Idx) : (s.memWrite a v).idx g = s.idx g := by cases g <;> rfl

/-! ### memRead16 -/

@[simp] theorem State.memRead16_main (a : Word) : (s.memRead16 a).2.main = s.main := rfl
@[simp] theorem State.memRead16_alt (a : Word) : (s.memRead16 a).2.alt = s.alt := rfl
@[simp] theorem State.memRead16_ix (a : Word) : (s.memRead16 a).2.ix = s.ix := rfl
@[simp] theorem State.memRead16_iy (a : Word) : (s.memRead16 a).2.iy = s.iy := rfl
@[simp] theorem State.memRead16_sp (a : Word) : (s.memRead16 a).2.sp = s.sp := rfl
@[simp] theorem State.memRead16_pc (a : Word) : (s.memRead16 a).2.pc = s.pc := rfl
@[simp] theorem State.memRead16_i (a : Word) : (s.memRead16 a).2.i = s.i := rfl
@[simp] theorem State.memRead16_r (a : Word) : (s.memRead16 a).2.r = s.r := rfl
@[simp] theorem State.memRead16_iff1 (a : Word) : (s.memRead16 a).2.iff1 = s.iff1 := rfl
@[simp] theorem State.memRead16_iff2 (a : Word) : (s.memRead16 a).2.iff2 = s.iff2 := rfl
@[simp] theorem State.memRead16_im (a : Word) : (s.memRead16 a).2.im = s.im := rfl
@[simp] theorem State.memRead16_mode0Byte (a : Word) : (s.memRead16 a).2.mode0Byte = s.mode0Byte := rfl
@[simp] theorem State.memRead16_decoder (a : Word) : (s.memRead16 a).2.decoder = s.decoder := rfl
@[simp] theorem State.memRead16_mem (a : Word) : (s.memRead16 a).2.mem = s.mem := rfl
@[simp] theorem State.memRead16_cfg (a : Word) : (s.memRead16 a).2.cfg = s.cfg := rfl
@[simp] theorem State.memRead16_draws (a : Word) : (s.memRead16 a).2.draws = s.draws := rfl
@[simp] theorem State.memRead16_portAnswers (a : Word) : (s.memRead16 a).2.portAnswers = s.portAnswers := rfl

@[simp] theorem State.memRead16_peek (a : Word) (k : Word) : (s.memRead16 a).2.peek k = s.peek k := rfl
@[simp] theorem State.memRead16_writable (a : Word) (k : Word) : (s.memRead16 a).2.writable k = s.writable k := rfl
@[simp] theorem State.memRead16_reg (a : Word) (g : Reg8) : (s.memRead16 a).2.reg g = s.reg g := rfl
@[simp] theorem State.memRead16_pair (a : Word) (g : Rp) : (s.memRead16 a).2.pair g = s.pair g := by cases g <;> rfl
@[simp] theorem State.memRead16_idx (a : Word) (g : Idx) : (s.memRead16 a).2.idx g = s.idx g := by cases g <;> rfl

/-! ### memWrite16 -/

@[simp] theorem State.memWrite16_main (a v : Word) : (s.memWrite16 a v).main = s.main := rfl
@[simp] theorem State.memWrite16_alt (a v : Word) : (s.memWrite16 a v).alt = s.alt := rfl
@[simp] theorem State.memWrite16_ix (a v : Word) : (s.memWrite16 a v).ix = s.ix := rfl
@[simp] theorem State.memWrite16_iy (a v : Word) : (s.memWrite16 a v).iy = s.iy := rfl
@[simp] theorem State.memWrite16_sp (a v : Word) : (s.memWrite16 a v).sp = s.sp := rfl
@[simp] theorem State.memWrite16_pc (a v : Word) : (s.memWrite16 a v).pc = s.pc := rfl
@[simp] theorem State.memWrite16_i (a v : Word) : (s.memWrite16 a v).i = s.i := rfl
@[simp] theorem State.memWrite16_r (a v : Word) : (s.memWrite16 a v).r = s.r := rfl
@[simp] theorem State.memWrite16_iff1 (a v : Word) : (s.memWrite16 a v).iff1 = s.iff1 := rfl
@[simp] theorem State.memWrite16_iff2 (a v : Word) : (s.memWrite16 a v).iff2 = s.iff2 := rfl
@[simp] theorem State.memWrite16_im (a v : Word) : (s.memWrite16 a v).im = s.im := rfl
@[simp] theorem State.memWrite16_mode0Byte (a v : Word) : (s.memWrite16 a v).mode0Byte = s.mode0Byte := rfl
@[simp] theorem State.memWrite16_decoder (a v : Word) : (s.memWrite16 a v).decoder = s.decoder := rfl
@[simp] theorem State.memWrite16_cfg (a v : Word) : (s.memWrite16 a v).cfg = s.cfg := rfl
@[simp] theorem State.memWrite16_draws (a v : Word) : (s.memWrite16 a v).draws = s.draws := rfl
@[simp] theorem State.memWrite16_portAnswers (a v : Word) : (s.memWrite16 a v).portAnswers = s.portAnswers := rfl

@[simp] theorem State.memWrite16_writable (a v : Word) (k : Word) : (s.memWrite16 a v).writable k = s.writable k := rfl
@[simp] theorem State.memWrite16_reg (a v : Word) (g : Reg8) : (s.memWrite16 a v).reg g = s.reg g := rfl
@[simp] theorem State.memWrite16_pair (a v : Word) (g : Rp) : (s.memWrite16 a v).pair g = s.pair g := by cases g <;> rfl
@[simp] theorem State.memWrite16_idx (a v : Word) (g : Idx) : (s.memWrite16 a v).idx g = s.idx g := by cases g <;> rfl

/-! ### ioRead -/

@[simp] theorem State.ioRead_main (p : Word) : (s.ioRead p).2.main = s.main := rfl
@[simp] theorem State.ioRead_alt (p : Word) : (s.ioRead p).2.alt = s.alt := rfl
@[simp] theorem State.ioRead_ix (p : Word) : (s.ioRead p).2.ix = s.ix := rfl
@[simp] theorem State.ioRead_iy (p : Word) : (s.ioRead p).2.iy = s.iy := rfl
@[simp] theorem State.ioRead_sp (p : Word) : (s.ioRead p).2.sp = s.sp := rfl
@[simp] theorem State.ioRead_pc (p : Word) : (s.ioRead p).2.pc = s.pc := rfl
@[simp] theorem State.ioRead_i (p : Word) : (s.ioRead p).2.i = s.i := rfl
@[simp] theorem State.ioRead_r (p : Word) : (s.ioRead p).2.r = s.r := rfl
@[simp] theorem State.ioRead_iff1 (p : Word) : (s.ioRead p).2.iff1 = s.iff1 := rfl
@[simp] theorem State.ioRead_iff2 (p : Word) : (s.ioRead p).2.iff2 = s.iff2 := rfl
@[simp] theorem State.ioRead_im (p : Word) : (s.ioRead p).2.im = s.im := rfl
@[simp] theorem State.ioRead_mode0Byte (p : Word) : (s.ioRead p).2.mode0Byte = s.mode0Byte := rfl
@[simp] theorem State.ioRead_decoder (p : Word) : (s.ioRead p).2.decoder = s.decoder := rfl
@[simp] theorem State.ioRead_mem (p : Word) : (s.ioRead p).2.mem = s.mem := rfl
@[simp] theorem State.ioRead_cfg (p : Word) : (s.ioRead p).2.cfg = s.cfg := rfl
@[simp] theorem State.ioRead_draws (p : Word) : (s.ioRead p).2.draws = s.draws := rfl

@[simp] theorem State.ioRead_peek (p : Word) (k : Word) : (s.ioRead p).2.peek k = s.peek k := rfl
@[simp] theorem State.ioRead_writable (p : Word) (k : Word) : (s.ioRead p).2.writable k = s.writable k := rfl
@[simp] theorem State.ioRead_reg (p : Word) (g : Reg8) : (s.ioRead p).2.reg g = s.reg g := rfl
@[simp] theorem State.ioRead_pair (p : Word) (g : Rp) : (s.ioRead p).2.pair g = s.pair g := by cases g <;> rfl
@[simp] theorem State.ioRead_idx (p : Word) (g : Idx) : (s.ioRead p).2.idx g = s.idx g := by cases g <;> rfl

/-! ### ioWrite -/

@[simp] theorem State.ioWrite_main (p : Word) (v : Byte) : (s.ioWrite p v).main = s.main := rfl
@[simp] theorem State.ioWrite_alt (p : Word) (v : Byte) : (s.ioWrite p v).alt = s.alt := rfl
@[simp] theorem State.ioWrite_ix (p : Word) (v : Byte) : (s.ioWrite p v).ix = s.ix := rfl
@[simp] theorem State.ioWrite_iy (p : Word) (v : Byte) : (s.ioWrite p v).iy = s.iy := rfl
@[simp] theorem State.ioWrite_sp (p : Word) (v : Byte) : (s.ioWrite p v).sp = s.sp := rfl
@[simp] theorem State.ioWrite_pc (p : Word) (v : Byte) : (s.ioWrite p v).pc = s.pc := rfl
@[simp] theorem State.ioWrite_i (p : Word) (v : Byte) : (s.ioWrite p v).i = s.i := rfl
@[simp] theorem State.ioWrite_r (p : Word) (v : Byte) : (s.ioWrite p v).r = s.r := rfl
@[simp] theorem State.ioWrite_iff1 (p : Word) (v : Byte) : (s.ioWrite p v).iff1 = s.iff1 := rfl
@[simp] theorem State.ioWrite_iff2 (p : Word) (v : Byte) : (s.ioWrite p v).iff2 = s.iff2 := rfl
@[simp] theorem State.ioWrite_im (p : Word) (v : Byte) : (s.ioWrite p v).im = s.im := rfl
@[simp] theorem State.ioWrite_mode0Byte (p : Word) (v : Byte) : (s.ioWrite p v).mode0Byte = s.mode0Byte := rfl
@[simp] theorem State.ioWrite_decoder (p : Word) (v : Byte) : (s.ioWrite p v).decoder = s.decoder := rfl
@[simp] theorem State.ioWrite_mem (p : Word) (v : Byte) : (s.ioWrite p v).mem = s.mem := rfl
@[simp] theorem State.ioWrite_cfg (p : Word) (v : Byte) : (s.ioWrite p v).cfg = s.cfg := rfl
@[simp] theorem State.ioWrite_draws (p : Word) (v : Byte) : (s.ioWrite p v).draws = s.draws := rfl
@[simp] theorem State.ioWrite_portAnswers (p : Word) (v : Byte) : (s.ioWrite p v).portAnswers = s.portAnswers := rfl

@[simp] theorem State.ioWrite_peek (p : Word) (v : Byte) (k : Word) : (s.ioWrite p v).peek k = s.peek k := rfl
@[simp] theorem State.ioWrite_writable (p : Word) (v : Byte) (k : Word) : (s.ioWrite p v).writable k = s.writable k := rfl
@[simp] theorem State.ioWrite_reg (p : Word) (v : Byte) (g : Reg8) : (s.ioWrite p v).reg g = s.reg g := rfl
@[simp] theorem State.ioWrite_pair (p : Word) (v : Byte) (g : Rp) : (s.ioWrite p v).pair g = s.pair g := by cases g <;> rfl
@[simp] theorem State.ioWrite_idx (p : Word) (v : Byte) (g : Idx) : (s.ioWrite p v).idx g = s.idx g := by cases g <;> rfl

/-! ### push16 -/

@[simp] theorem State.push16_main (v : Word) : (s.push16 v).main = s.main := rfl
@[simp] theorem State.push16_alt (v : Word) : (s.push16 v).alt = s.alt := rfl
@[simp] theorem State.push16_ix (v : Word) : (s.push16 v).ix = s.ix := rfl
@[simp] theorem State.push16_iy (v : Word) : (s.push16 v).iy = s.iy := rfl
@[simp] theorem State.push16_pc (v : Word) : (s.push16 v).pc = s.pc := rfl
@[simp] theorem State.push16_i (v : Word) : (s.push16 v).i = s.i := rfl
@[simp] theorem State.push16_r (v : Word) : (s.push16 v).r = s.r := rfl
@[simp] theorem State.push16_iff1 (v : Word) : (s.push16 v).iff1 = s.iff1 := rfl
@[simp] theorem State.push16_iff2 (v : Word) : (s.push16 v).iff2 = s.iff2 := rfl
@[simp] theorem State.push16_im (v : Word) : (s.push16 v).im = s.im := rfl
@[simp] theorem State.push16_mode0Byte (v : Word) : (s.push16 v).mode0Byte = s.mode0Byte := rfl
@[simp] theorem State.push16_decoder (v : Word) : (s.push16 v).decoder = s.decoder := rfl
@[simp] theorem State.push16_cfg (v : Word) : (s.push16 v).cfg = s.cfg := rfl
@[simp] theorem State.push16_draws (v : Word) : (s.push16 v).draws = s.draws := rfl
@[simp] theorem State.push16_portAnswers (v : Word) : (s.push16 v).portAnswers = s.portAnswers := rfl

@[simp] theorem State.push16_writable (v : Word) (k : Word) : (s.push16 v).writable k = s.writable k := rfl
@[simp] theorem State.push16_reg (v : Word) (g : Reg8) : (s.push16 v).reg g = s.reg g := rfl
@[simp] theorem State.push16_idx (v : Word) (g : Idx) : (s.push16 v).idx g = s.idx g := by cases g <;> rfl

/-! ### pop16 -/

@[simp] theorem State.pop16_main : s.pop16.2.main = s.main := rfl
@[simp] theorem State.pop16_alt : s.pop16.2.alt = s.alt := rfl
@[simp] theorem State.pop16_ix : s.pop16.2.ix = s.ix := rfl
@[simp] theorem State.pop16_iy : s.pop16.2.iy = s.iy := rfl
@[simp] theorem State.pop16_pc : s.pop16.2.pc = s.pc := rfl
@[simp] theorem State.pop16_i : s.pop16.2.i = s.i := rfl
@[simp] theorem State.pop16_r : s.pop16.2.r = s.r := rfl
@[simp] theorem State.pop16_iff1 : s.pop16.2.iff1 = s.iff1 := rfl
@[simp] theorem State.pop16_iff2 : s.pop16.2.iff2 = s.iff2 := rfl
@[simp] theorem State.pop16_im : s.pop16.2.im = s.im := rfl
@[simp] theorem State.pop16_mode0Byte : s.pop16.2.mode0Byte = s.mode0Byte := rfl
@[simp] theorem State.pop16_decoder : s.pop16.2.decoder = s.decoder := rfl
@[simp] theorem State.pop16_mem : s.pop16.2.mem = s.mem := rfl
@[simp] theorem State.pop16_cfg : s.pop16.2.cfg = s.cfg := rfl
@[simp] theorem State.pop16_draws : s.pop16.2.draws = s.draws := rfl
@[simp] theorem State.pop16_portAnswers : s.pop16.2.portAnswers = s.portAnswers := rfl

@[simp] theorem State.pop16_peek (k : Word) : s.pop16.2.peek k = s.peek k := rfl
@[simp] theorem State.pop16_writable (k : Word) : s.pop16.2.writable k = s.writable k := rfl
@[simp] theorem State.pop16_reg (g : Reg8) : s.pop16.2.reg g = s.reg g := rfl
@[simp] theorem State.pop16_idx (g : Idx) : s.pop16.2.idx g = s.idx g := by cases g <;> rfl

/-! ### acknowledge -/

@[simp] theorem State.acknowledge_main : s.acknowledge.2.main = s.main := rfl
@[simp] theorem State.acknowledge_alt : s.acknowledge.2.alt = s.alt := rfl
@[simp] theorem State.acknowledge_ix : s.acknowledge.2.ix = s.ix := rfl
@[simp] theorem State.acknowledge_iy : s.acknowledge.2.iy = s.iy := rfl
@[simp] theorem State.acknowledge_sp : s.acknowledge.2.sp = s.sp := rfl
@[simp] theorem State.acknowledge_pc : s.acknowledge.2.pc = s.pc := rfl
@[simp] theorem State.acknowledge_i : s.acknowledge.2.i = s.i := rfl
@[simp] theorem State.acknowledge_iff1 : s.acknowledge.2.iff1 = s.iff1 := rfl
@[simp] theorem State.acknowledge_iff2 : s.acknowledge.2.iff2 = s.iff2 := rfl
@[simp] theorem State.acknowledge_im : s.acknowledge.2.im = s.im := rfl
@[simp] theorem State.acknowledge_mode0Byte : s.acknowledge.2.mode0Byte = s.mode0Byte := rfl
@[simp] theorem State.acknowledge_decoder : s.acknowledge.2.decoder = s.decoder := rfl
@[simp] theorem State.acknowledge_mem : s.acknowledge.2.mem = s.mem := rfl
@[simp] theorem State.acknowledge_cfg : s.acknowledge.2.cfg = s.cfg := rfl
@[simp] theorem State.acknowledge_draws : s.acknowledge.2.draws = s.draws := rfl
@[simp] theorem State.acknowledge_portAnswers : s.acknowledge.2.portAnswers = s.portAnswers := rfl

@[simp] theorem State.acknowledge_peek (k : Word) : s.acknowledge.2.peek k = s.peek k := rfl
@[simp] theorem State.acknowledge_writable (k : Word) : s.acknowledge.2.writable k = s.writable k := rfl
@[simp] theorem State.acknowledge_reg (g : Reg8) : s.acknowledge.2.reg g = s.reg g := rfl
@[simp] theorem State.acknowledge_pair (g : Rp) : s.acknowledge.2.pair g = s.pair g := by cases g <;> rfl
@[simp] theorem State.acknowledge_idx (g : Idx) : s.acknowledge.2.idx g = s.idx g := by cases g <;> rfl

/-! ### writeFlags -/

@[simp] theorem State.writeFlags_alt (w : FlagWrite) : (s.writeFlags w).alt = s.alt := rfl
@[simp] theorem State.writeFlags_ix (w : FlagWrite) : (s.writeFlags w).ix = s.ix := rfl
@[simp] theorem State.writeFlags_iy (w : FlagWrite) : (s.writeFlags w).iy = s.iy := rfl
@[simp] theorem State.writeFlags_sp (w : FlagWrite) : (s.writeFlags w).sp = s.sp := rfl
@[simp] theorem State.writeFlags_pc (w : FlagWrite) : (s.writeFlags w).pc = s.pc := rfl
@[simp] theorem State.writeFlags_i (w : FlagWrite) : (s.writeFlags w).i = s.i := rfl
@[simp] theorem State.writeFlags_r (w : FlagWrite) : (s.writeFlags w).r = s.r := rfl
@[simp] theorem State.writeFlags_iff1 (w : FlagWrite) : (s.writeFlags w).iff1 = s.iff1 := rfl
@[simp] theorem State.writeFlags_iff2 (w : FlagWrite) : (s.writeFlags w).iff2 = s.iff2 := rfl
@[simp] theorem State.writeFlags_im (w : FlagWrite) : (s.writeFlags w).im = s.im := rfl
@[simp] theorem State.writeFlags_mode0Byte (w : FlagWrite) : (s.writeFlags w).mode0Byte = s.mode0Byte := rfl
@[simp] theorem State.writeFlags_decoder (w : FlagWrite) : (s.writeFlags w).decoder = s.decoder := rfl
@[simp] theorem State.writeFlags_mem (w : FlagWrite) : (s.writeFlags w).mem = s.mem := rfl
@[simp] theorem State.writeFlags_cfg (w : FlagWrite) : (s.writeFlags w).cfg = s.cfg := rfl
@[simp] theorem State.writeFlags_portAnswers (w : FlagWrite) : (s.writeFlags w).portAnswers = s.portAnswers := rfl
@[simp] theorem State.writeFlags_trace (w : FlagWrite) : (s.writeFlags w).trace = s.trace := rfl
@[simp] theorem State.writeFlags_toSurface (w : FlagWrite) : (s.writeFlags w).toSurface = s.toSurface := rfl

@[simp] theorem State.writeFlags_peek (w : FlagWrite) (k : Word) : (s.writeFlags w).peek k = s.peek k := rfl
@[simp] theorem State.writeFlags_writable (w : FlagWrite) (k : Word) : (s.writeFlags w).writable k = s.writable k := rfl
@[simp] theorem State.writeFlags_idx (w : FlagWrite) (g : Idx) : (s.writeFlags w).idx g = s.idx g := by cases g <;> rfl

/-! ### writeFlagsUndoc -/

@[simp] theorem State.writeFlagsUndoc_alt (w : FlagWrite) (a b : Bool) : (s.writeFlagsUndoc w a b).alt = s.alt := rfl
@[simp] theorem State.writeFlagsUndoc_ix (w : FlagWrite) (a b : Bool) : (s.writeFlagsUndoc w a b).ix = s.ix := rfl
@[simp] theorem State.writeFlagsUndoc_iy (w : FlagWrite) (a b : Bool) : (s.writeFlagsUndoc w a b).iy = s.iy := rfl
@[simp] theorem State.writeFlagsUndoc_sp (w : FlagWrite) (a b : Bool) : (s.writeFlagsUndoc w a b).sp = s.sp := rfl
@[simp] theorem State.writeFlagsUndoc_pc (w : FlagWrite) (a b : Bool) : (s.writeFlagsUndoc w a b).pc = s.pc := rfl
@[simp] theorem State.writeFlagsUndoc_i (w : FlagWrite) (a b : Bool) : (s.writeFlagsUndoc w a b).i = s.i := rfl
@[simp] theorem State.writeFlagsUndoc_r (w : FlagWrite) (a b : Bool) : (s.writeFlagsUndoc w a b).r = s.r := rfl
@[simp] theorem State.writeFlagsUndoc_iff1 (w : FlagWrite) (a b : Bool) : (s.writeFlagsUndoc w a b).iff1 = s.iff1 := rfl
@[simp] theorem State.writeFlagsUndoc_iff2 (w : FlagWrite) (a b : Bool) : (s.writeFlagsUndoc w a b).iff2 = s.iff2 := rfl
@[simp] theorem State.writeFlagsUndoc_im (w : FlagWrite) (a b : Bool) : (s.writeFlagsUndoc w a b).im = s.im := rfl
@[simp] theorem State.writeFlagsUndoc_mode0Byte (w : FlagWrite) (a b : Bool) : (s.writeFlagsUndoc w a b).mode0Byte = s.mode0Byte := rfl
@[simp] theorem State.writeFlagsUndoc_decoder (w : FlagWrite) (a b : Bool) : (s.writeFlagsUndoc w a b).decoder = s.decoder := rfl
@[simp] theorem State.writeFlagsUndoc_mem (w : FlagWrite) (a b : Bool) : (s.writeFlagsUndoc w a b).mem = s.mem := rfl
@[simp] theorem State.writeFlagsUndoc_cfg (w : FlagWrite) (a b : Bool) : (s.writeFlagsUndoc w a b).cfg = s.cfg := rfl
@[simp] theorem State.writeFlagsUndoc_portAnswers (w : FlagWrite) (a b : Bool) : (s.writeFlagsUndoc w a b).portAnswers = s.portAnswers := rfl
@[simp] theorem State.writeFlagsUndoc_trace (w : FlagWrite) (a b : Bool) : (s.writeFlagsUndoc w a b).trace = s.trace := rfl
@[simp] theorem State.writeFlagsUndoc_toSurface (w : FlagWrite) (a b : Bool) : (s.writeFlagsUndoc w a b).toSurface = s.toSurface := rfl

@[simp] theorem State.writeFlagsUndoc_peek (w : FlagWrite) (a b : Bool) (k : Word) : (s.writeFlagsUndoc w a b).peek k = s.peek k := rfl
@[simp] theorem State.writeFlagsUndoc_writable (w : FlagWrite) (a b : Bool) (k : Word) : (s.writeFlagsUndoc w a b).writable k = s.writable k := rfl
@[simp] theorem State.writeFlagsUndoc_idx (w : FlagWrite) (a b : Bool) (g : Idx) : (s.writeFlagsUndoc w a b).idx g = s.idx g := by cases g <;> rfl

/-! ### rewindIf -/

@[simp] theorem State.rewindIf_main (b : Bool) : (s.rewindIf b).main = s.main := by cases b <;> rfl
@[simp] theorem State.rewindIf_alt (b : Bool) : (s.rewindIf b).alt = s.alt := by cases b <;> rfl
@[simp] theorem State.rewindIf_ix (b : Bool) : (s.rewindIf b).ix = s.ix := by cases b <;> rfl
@[simp] theorem State.rewindIf_iy (b : Bool) : (s.rewindIf b).iy = s.iy := by cases b <;> rfl
@[simp] theorem State.rewindIf_sp (b : Bool) : (s.rewindIf b).sp = s.sp := by cases b <;> rfl
@[simp] theorem State.rewindIf_i (b : Bool) : (s.rewindIf b).i = s.i := by cases b <;> rfl
@[simp] theorem State.rewindIf_r (b : Bool) : (s.rewindIf b).r = s.r := by cases b <;> rfl
@[simp] theorem State.rewindIf_iff1 (b : Bool) : (s.rewindIf b).iff1 = s.iff1 := by cases b <;> rfl
@[simp] theorem State.rewindIf_iff2 (b : Bool) : (s.rewindIf b).iff2 = s.iff2 := by cases b <;> rfl
@[simp] theorem State.rewindIf_im (b : Bool) : (s.rewindIf b).im = s.im := by cases b <;> rfl
@[simp] theorem State.rewindIf_mode0Byte (b : Bool) : (s.rewindIf b).mode0Byte = s.mode0Byte := by cases b <;> rfl
@[simp] theorem State.rewindIf_decoder (b : Bool) : (s.rewindIf b).decoder = s.decoder := by cases b <;> rfl
@[simp] theorem State.rewindIf_mem (b : Bool) : (s.rewindIf b).mem = s.mem := by cases b <;> rfl
@[simp] theorem State.rewindIf_cfg (b : Bool) : (s.rewindIf b).cfg = s.cfg := by cases b <;> rfl
@[simp] theorem State.rewindIf_draws (b : Bool) : (s.rewindIf b).draws = s.draws := by cases b <;> rfl
@[simp] theorem State.rewindIf_portAnswers (b : Bool) : (s.rewindIf b).portAnswers = s.portAnswers := by cases b <;> rfl
@[simp] theorem State.rewindIf_trace (b : Bool) : (s.rewindIf b).trace = s.trace := by cases b <;> rfl
@[simp] theorem State.rewindIf_toSurface (b : Bool) : (s.rewindIf b).toSurface = s.toSurface := by cases b <;> rfl

@[simp] theorem State.rewindIf_peek (b : Bool) (k : Word) : (s.rewindIf b).peek k = s.peek k := by cases b <;> rfl
@[simp] theorem State.rewindIf_writable (b : Bool) (k : Word) : (s.rewindIf b).writable k = s.writable k := by cases b <;> rfl
@[simp] theorem State.rewindIf_reg (b : Bool) (g : Reg8) : (s.rewindIf b).reg g = s.reg g := by cases b <;> rfl
@[simp] theorem State.rewindIf_pair (b : Bool) (g : Rp) : (s.rewindIf b).pair g = s.pair g := by cases b <;> cases g <;> rfl
@[simp] theorem State.rewindIf_idx (b : Bool) (g : Idx) : (s.rewindIf b).idx g = s.idx g := by cases b <;> cases g <;> rfl

/-! ### The surface -/

variable (c : Surface)

@[simp] theorem Surface.publish_halted (l : Lines) : (c.publish l).halted = c.halted := rfl
@[simp] theorem Surface.publish_nmiLatch (l : Lines) : (c.publish l).nmiLatch = c.nmiLatch := rfl
@[simp] theorem Surface.publish_intLatch (l : Lines) : (c.publish l).intLatch = c.intLatch := rfl
@[simp] theorem Surface.publish_intVector (l : Lines) : (c.publish l).intVector = c.intVector := rfl
@[simp] theorem Surface.publish_kill (l : Lines) : (c.publish l).kill = c.kill := rfl
@[simp] theorem Surface.publish_tTotal (l : Lines) : (c.publish l).tTotal = c.tTotal := rfl
@[simp] theorem Surface.publish_tInstr (l : Lines) : (c.publish l).tInstr = c.tInstr := rfl
@[simp] theorem Surface.publish_clock (l : Lines) : (c.publish l).clock = c.clock := rfl
@[simp] theorem Surface.publish_clockEnds (l : Lines) : (c.publish l).clockEnds = c.clockEnds := rfl
@[simp] theorem Surface.publish_wave (l : Lines) : (c.publish l).wave = c.wave := rfl
@[simp] theorem Surface.publish_stuck (l : Lines) : (c.publish l).stuck = c.stuck := rfl

@[simp] theorem Surface.setKind_halted (k : MCycle) : (c.setKind k).halted = c.halted := rfl
@[simp] theorem Surface.setKind_nmiLatch (k : MCycle) : (c.setKind k).nmiLatch = c.nmiLatch := rfl
@[simp] theorem Surface.setKind_intLatch (k : MCycle) : (c.setKind k).intLatch = c.intLatch := rfl
@[simp] theorem Surface.setKind_intVector (k : MCycle) : (c.setKind k).intVector = c.intVector := rfl
@[simp] theorem Surface.setKind_kill (k : MCycle) : (c.setKind k).kill = c.kill := rfl
@[simp] theorem Surface.setKind_tTotal (k : MCycle) : (c.setKind k).tTotal = c.tTotal := rfl
@[simp] theorem Surface.setKind_tInstr (k : MCycle) : (c.setKind k).tInstr = c.tInstr := rfl
@[simp] theorem Surface.setKind_clock (k : MCycle) : (c.setKind k).clock = c.clock := rfl
@[simp] theorem Surface.setKind_clockEnds (k : MCycle) : (c.setKind k).clockEnds = c.clockEnds := rfl
@[simp] theorem Surface.setKind_wave (k : MCycle) : (c.setKind k).wave = c.wave := rfl
@[simp] theorem Surface.setKind_stuck (k : MCycle) : (c.setKind k).stuck = c.stuck := rfl

@[simp] theorem Surface.retire_pins (n : Nat) : (c.retire n).pins = c.pins := rfl
@[simp] theorem Surface.retire_halted (n : Nat) : (c.retire n).halted = c.halted := rfl
@[simp] theorem Surface.retire_nmiLatch (n : Nat) : (c.retire n).nmiLatch = c.nmiLatch := rfl
@[simp] theorem Surface.retire_intLatch (n : Nat) : (c.retire n).intLatch = c.intLatch := rfl
@[simp] theorem Surface.retire_intVector (n : Nat) : (c.retire n).intVector = c.intVector := rfl
@[simp] theorem Surface.retire_kill (n : Nat) : (c.retire n).kill = c.kill := rfl
@[simp] theorem Surface.retire_clock (n : Nat) : (c.retire n).clock = c.clock := rfl
@[simp] theorem Surface.retire_clockEnds (n : Nat) : (c.retire n).clockEnds = c.clockEnds := rfl
@[simp] theorem Surface.retire_stuck (n : Nat) : (c.retire n).stuck = c.stuck := rfl

@[simp] theorem Surface.release_halted : c.release.halted = c.halted := rfl
@[simp] theorem Surface.release_nmiLatch : c.release.nmiLatch = c.nmiLatch := rfl
@[simp] theorem Surface.release_intLatch : c.release.intLatch = c.intLatch := rfl
@[simp] theorem Surface.release_intVector : c.release.intVector = c.intVector := rfl
@[simp] theorem Surface.release_kill : c.release.kill = c.kill := rfl
@[simp] theorem Surface.release_tTotal : c.release.tTotal = c.tTotal := rfl
@[simp] theorem Surface.release_tInstr : c.release.tInstr = c.tInstr := rfl
@[simp] theorem Surface.release_clock : c.release.clock = c.clock := rfl
@[simp] theorem Surface.release_clockEnds : c.release.clockEnds = c.clockEnds := rfl
@[simp] theorem Surface.release_wave : c.release.wave = c.wave := rfl
@[simp] theorem Surface.release_stuck : c.release.stuck = c.stuck := rfl

@[simp] theorem State.cycle_toSurface (k : BusCycle) : (s.cycle k).toSurface = s.toSurface.cycle k := rfl
@[simp] theorem State.release_toSurface : s.release.toSurface = s.toSurface.release := rfl
@[simp] theorem State.internal_toSurface (n : Nat) : (s.internal n).toSurface = s.toSurface.internal n := rfl
@[simp] theorem State.signal_toSurface (x : Signal) : (s.signal x).toSurface = s.toSurface.signal x := rfl
@[simp] theorem State.signals_toSurface (e : Edge) : (s.signals e).toSurface = s.toSurface.signals e := rfl
@[simp] theorem Surface.release_lines : c.release.pins.lines = {} := rfl

/-! ### Values -/

@[simp] theorem State.setPc_pc (v : Word) : (s.setPc v).pc = v := rfl
@[simp] theorem State.record_bus (o : BusOp) : (s.record o).trace.bus = s.trace.bus ++ [o] := rfl
@[simp] theorem State.memRead_val (a : Word) : (s.memRead a).1 = s.peek a := rfl
@[simp] theorem State.memRead16_val (a : Word) : (s.memRead16 a).1 = s.peek16 a := rfl
@[simp] theorem State.ioRead_val (p : Word) : (s.ioRead p).1 = s.portByte p := rfl
@[simp] theorem State.pop16_val : s.pop16.1 = s.peek16 s.sp := rfl
@[simp] theorem State.push16_sp (v : Word) : (s.push16 v).sp = s.sp - 2 := rfl
@[simp] theorem State.pop16_sp : s.pop16.2.sp = s.sp + 2 := rfl
@[simp] theorem State.writeFlags_draws (w : FlagWrite) : (s.writeFlags w).draws = s.draws + 2 := rfl
@[simp] theorem State.writeFlagsUndoc_draws (w : FlagWrite) (a b : Bool) :
    (s.writeFlagsUndoc w a b).draws = s.draws + 4 := rfl
@[simp] theorem State.writeFlags_reg (w : FlagWrite) (q : Reg8) : (s.writeFlags w).reg q = s.reg q := by cases q <;> rfl
@[simp] theorem State.writeFlags_pair (w : FlagWrite) (q : Rp) : (s.writeFlags w).pair q = s.pair q := by
  cases q <;> rfl

theorem State.reg_setReg (q g : Reg8) (v : Byte) : (s.setReg q v).reg g = if g = q then v else s.reg g := by
  cases q <;> cases g <;> rfl

@[simp] theorem State.reg_setReg_same (q : Reg8) (v : Byte) : (s.setReg q v).reg q = v := by cases q <;> rfl

@[simp] theorem State.setReg_f (q : Reg8) (v : Byte) : (s.setReg q v).main.f = s.main.f := by cases q <;> rfl

@[simp] theorem State.setPair_f (q : Rp) (v : Word) : (s.setPair q v).main.f = s.main.f := by cases q <;> rfl

@[simp] theorem loByte_joinBytes (hi lo : Byte) : loByte (joinBytes hi lo) = lo := by
  apply BitVec.eq_of_getLsbD_eq
  intro i h
  simp only [loByte, joinBytes, BitVec.getLsbD_extractLsb', h, BitVec.getLsbD_append]
  simp [h]

@[simp] theorem hiByte_joinBytes (hi lo : Byte) : hiByte (joinBytes hi lo) = hi := by
  apply BitVec.eq_of_getLsbD_eq
  intro i h
  simp only [hiByte, joinBytes, BitVec.getLsbD_extractLsb', h, BitVec.getLsbD_append]
  simp

@[simp] theorem joinBytes_hi_lo (w : Word) : joinBytes (hiByte w) (loByte w) = w := by
  simp only [joinBytes, hiByte, loByte]
  apply BitVec.eq_of_getLsbD_eq
  intro i h
  simp only [BitVec.getLsbD_append, BitVec.getLsbD_extractLsb']
  split
  · simp_all
  · rw [show 8 + (i - 8) = i by omega]; simp; omega

@[simp] theorem State.pair_setPair_same (q : Rp) (v : Word) : (s.setPair q v).pair q = v := by
  cases q <;> simp [State.pair, State.setPair]

@[simp] theorem State.idx_setIdx_same (x : Idx) (v : Word) : (s.setIdx x v).idx x = v := by cases x <;> rfl

theorem State.half_setHalf (x : Idx) (h g : Half) (v : Byte) :
    (s.setHalf x h v).half x g = if g = h then v else s.half x g := by
  cases x <;> cases h <;> cases g <;> simp [State.half, State.setHalf, State.idx, State.setIdx]

@[simp] theorem Flags.ofByte_toByte (f : Flags) : Flags.ofByte f.toByte = f := by
  obtain ⟨a, b, c, d, e, g, h, i⟩ := f
  cases a <;> cases b <;> cases c <;> cases d <;> cases e <;> cases g <;> cases h <;> cases i <;> rfl

@[simp] theorem Flags.toByte_ofByte (b : Byte) : (Flags.ofByte b).toByte = b := by
  revert b; decide

end Sys2Proof.Machine
end

