-- ==== Sys2Proof/Laws/Memory.lean ====
section
/-! SUPPORT. Laws/Memory: reading after writing, the canonical form kept by every memory operation, and what each store of
the machine does, seen through one byte. -/

namespace Sys2Proof.Machine

/-! ## The list -/

theorem Memory.read_erase (m : Memory) (a k : Nat) :
    (m.erase a).read k = if k = a then unlistedByte else m.read k := by
  induction m with
  | nil => simp [Memory.erase, Memory.read]
  | cons c rest ih =>
    obtain ⟨j, w⟩ := c
    simp only [Memory.erase, List.filter_cons] at ih ⊢
    by_cases hj : j = a
    · subst hj
      simp only [ne_eq, not_true_eq_false, decide_false, Bool.false_eq_true, if_false, ih, Memory.read]
      by_cases hk : k = j
      · simp [hk]
      · simp [hk, Ne.symm hk]
    · simp only [ne_eq, hj, not_false_eq_true, decide_true, if_true, Memory.read, ih]
      by_cases hk : k = a
      · subst hk; simp [hj]
      · simp [hk]

theorem Memory.read_insert (m : Memory) (a k : Nat) (v : Byte) (h : ∀ c ∈ m, c.1 ≠ a) :
    (m.insert a v).read k = if k = a then v else m.read k := by
  induction m with
  | nil => simp only [Memory.insert, Memory.read, eq_comm]
  | cons c rest ih =>
    obtain ⟨j, w⟩ := c
    have hj : j ≠ a := h (j, w) (by simp)
    simp only [Memory.insert]
    split
    · simp only [Memory.read, eq_comm]
    · simp only [Memory.read, ih (fun c hc => h c (by simp [hc]))]
      by_cases hk : k = a
      · subst hk; simp [hj]
      · simp [hk]

theorem Memory.erase_ne {m : Memory} {a : Nat} {c : Host.Cell} (h : c ∈ m.erase a) : c.1 ≠ a := by
  simpa using (List.mem_filter.mp h).2

/-- A read after a write: the written byte at its address, the old byte at every other. -/
theorem Memory.read_write (m : Memory) (a k : Nat) (v : Byte) :
    (m.write a v).read k = if k = a then v else m.read k := by
  unfold Memory.write
  split
  · next h => rw [Memory.read_erase, h]
  · rw [Memory.read_insert _ _ _ _ (fun c hc => Memory.erase_ne hc), Memory.read_erase]
    by_cases hk : k = a <;> simp [hk]

theorem Memory.erase_wf {m : Memory} (h : m.wf) (a : Nat) : (m.erase a).wf :=
  ⟨h.1.filter _, fun c hc => h.2 c (List.mem_filter.mp hc).1⟩

theorem Memory.mem_insert {m : Memory} {a : Nat} {v : Byte} {c : Host.Cell} (h : c ∈ m.insert a v) :
    c = (a, v) ∨ c ∈ m := by
  induction m with
  | nil => simpa [Memory.insert] using h
  | cons d rest ih =>
    obtain ⟨j, w⟩ := d
    simp only [Memory.insert] at h
    split at h
    · simpa using h
    · rcases List.mem_cons.mp h with h | h
      · simp [h]
      · rcases ih h with h | h <;> simp [h]

theorem Memory.insert_pairwise {m : Memory} {a : Nat} {v : Byte} (h : m.Pairwise (fun x y => x.1 < y.1))
    (ha : ∀ c ∈ m, c.1 ≠ a) : (m.insert a v).Pairwise (fun x y => x.1 < y.1) := by
  induction m with
  | nil => simp [Memory.insert]
  | cons d rest ih =>
    obtain ⟨j, w⟩ := d
    have hj : j ≠ a := ha (j, w) (by simp)
    rw [List.pairwise_cons] at h
    simp only [Memory.insert]
    split
    · next hlt =>
      rw [List.pairwise_cons, List.pairwise_cons]
      refine ⟨fun c hc => ?_, h⟩
      rcases List.mem_cons.mp hc with hc | hc
      · simpa [hc] using hlt
      · exact Nat.lt_trans hlt (h.1 c hc)
    · next hlt =>
      rw [List.pairwise_cons]
      refine ⟨fun c hc => ?_, ih h.2 (fun c hc => ha c (by simp [hc]))⟩
      rcases Memory.mem_insert hc with hc | hc
      · subst hc; exact Nat.lt_of_le_of_ne (Nat.le_of_not_lt hlt) hj
      · exact h.1 c hc

/-- A write keeps the canonical form. -/
theorem Memory.write_wf {m : Memory} (h : m.wf) {a : Nat} (ha : a < 2 ^ 16) (v : Byte) : (m.write a v).wf := by
  unfold Memory.write
  split
  · exact Memory.erase_wf h a
  · next hv =>
    refine ⟨Memory.insert_pairwise (Memory.erase_wf h a).1 (fun c hc => Memory.erase_ne hc), fun c hc => ?_⟩
    rcases Memory.mem_insert hc with hc | hc
    · subst hc; exact ⟨ha, hv⟩
    · exact (Memory.erase_wf h a).2 c hc

theorem Memory.place_wf {m : Memory} (h : m.wf) (a : Word) (bytes : List Byte) : (Memory.place m a bytes).wf := by
  induction bytes generalizing m a with
  | nil => exact h
  | cons b rest ih => exact ih (Memory.write_wf h a.isLt b) (a + 1)

theorem reset_mem_wf : Memory.wf State.reset.mem := by decide

/-- An address that is not listed reads as the unlisted byte. -/
theorem Memory.read_not_listed {m : Memory} {a : Nat} (h : ∀ c ∈ m, c.1 ≠ a) : m.read a = unlistedByte := by
  induction m with
  | nil => rfl
  | cons c rest ih =>
    obtain ⟨j, w⟩ := c
    have hj : j ≠ a := h (j, w) (by simp)
    simp [Memory.read, hj, ih (fun c hc => h c (by simp [hc]))]

/-! ## The machine's reads and writes -/

variable (s : State)

theorem State.peek_congr {t : State} (hc : t.cfg = s.cfg) (hm : t.mem = s.mem) (k : Word) : t.peek k = s.peek k := by
  simp only [State.peek, hc, hm]

theorem State.writable_congr {t : State} (hc : t.cfg = s.cfg) (k : Word) : t.writable k = s.writable k := by
  simp only [State.writable, hc]

theorem State.poke_writable {a : Word} (h : s.writable a = true) (v : Byte) :
    s.poke a v = s.mem.write a.toNat v ∧ ∃ q, s.cfg.memMap.resolve a = some q := by
  revert h
  unfold State.writable State.poke
  rcases s.cfg.memMap.resolve a with _ | q <;> simp_all

theorem State.poke_not_writable {a : Word} (h : s.writable a = false) (v : Byte) : s.poke a v = s.mem := by
  revert h
  unfold State.writable State.poke
  rcases s.cfg.memMap.resolve a with _ | q <;> simp_all

/-- `write_memory` changes the one byte addressed, or nothing (spec 20 R63). -/
theorem State.peek_memWrite (a : Word) (v : Byte) (k : Word) :
    (s.memWrite a v).peek k = if k = a ∧ s.writable a then v else s.peek k := by
  have hmem : (s.memWrite a v).mem = s.poke a v := rfl
  cases hw : s.writable a with
  | false => simp only [State.peek, State.memWrite_cfg, hmem, s.poke_not_writable hw]; simp
  | true =>
    obtain ⟨hp, q, hq⟩ := s.poke_writable hw v
    simp only [State.peek, State.memWrite_cfg, hmem, hp]
    by_cases hk : k = a
    · subst hk; simp [hq, Memory.read_write]
    · have hn : k.toNat ≠ a.toNat := fun h => hk (BitVec.eq_of_toNat_eq h)
      simp [Memory.read_write, hk, hn]

theorem State.memWrite_stores (a : Word) (v : Byte) : StoresByte s (s.memWrite a v) a v :=
  fun k => s.peek_memWrite a v k

theorem State.memWrite16_stores (a v : Word) : StoresWord s (s.memWrite16 a v) a v := by
  intro k
  simp only [State.memWrite16, State.peek_memWrite, State.memWrite_writable]
  by_cases h1 : k = a + 1
  · have h2 : k ≠ a := by subst h1; simp
    simp only [h2, false_and, if_false]
  · simp only [h1, false_and, if_false]

theorem State.push16_eq (v : Word) :
    (s.push16 v).mem = (({ s with sp := s.sp - 1 }.memWrite (s.sp - 1) (hiByte v)).memWrite (s.sp - 2) (loByte v)).mem :=
  rfl

/-- After a push the low byte is at the new SP and the high byte above it (41 R214). -/
theorem State.push16_stores (v : Word) : StoresWord s (s.push16 v) (s.sp - 2) v := by
  intro k
  have h2 : s.sp - 2 + 1 = s.sp - 1 := by bv_omega
  have hne : s.sp - 1 ≠ s.sp - 2 := by
    intro h; rw [← h2] at h; simp at h
  have : (s.push16 v).peek k =
      (({ s with sp := s.sp - 1 }.memWrite (s.sp - 1) (hiByte v)).memWrite (s.sp - 2) (loByte v)).peek k := rfl
  rw [this, State.peek_memWrite, State.peek_memWrite, h2]
  simp only [State.memWrite_writable]
  rfl

theorem State.poke_wf (h : s.mem.wf) (a : Word) (v : Byte) : Memory.wf (s.poke a v) := by
  unfold State.poke
  split
  · exact h
  · split
    · exact h
    · exact Memory.write_wf h a.isLt v

theorem State.memWrite_wf (h : s.mem.wf) (a : Word) (v : Byte) : (s.memWrite a v).mem.wf := s.poke_wf h a v

theorem State.memWrite16_wf (h : s.mem.wf) (a v : Word) : (s.memWrite16 a v).mem.wf :=
  State.memWrite_wf _ (State.memWrite_wf _ h _ _) _ _

theorem State.push16_wf (h : s.mem.wf) (v : Word) : (s.push16 v).mem.wf :=
  State.poke_wf _ (State.poke_wf _ h _ _) _ _

end Sys2Proof.Machine
end

