-- ==== Sys2Proof/Laws/Ops.lean ====
section
/-! SUPPORT. Laws/Ops: for each shared operation, what it can do: the bus operations it records, the bytes it stores, the
parts it leaves. -/

namespace Sys2Proof.Machine

variable (s : State)

/-! ## Recorded bus operations -/

@[simp] theorem State.memRead_bus (a : Word) : (s.memRead a).2.trace.bus = s.trace.bus ++ [.readMemory a (s.peek a)] := rfl

@[simp] theorem State.memWrite_bus (a : Word) (v : Byte) :
    (s.memWrite a v).trace.bus = s.trace.bus ++ [.writeMemory a v] := rfl

@[simp] theorem State.memRead16_bus (a : Word) :
    (s.memRead16 a).2.trace.bus =
      s.trace.bus ++ [.readMemory a (s.peek a), .readMemory (a + 1) (s.peek (a + 1))] := by
  simp only [State.memRead16, State.memRead_bus, State.memRead_peek, List.append_assoc, List.singleton_append]

@[simp] theorem State.memWrite16_bus (a v : Word) :
    (s.memWrite16 a v).trace.bus =
      s.trace.bus ++ [.writeMemory a (loByte v), .writeMemory (a + 1) (hiByte v)] := by
  simp only [State.memWrite16, State.memWrite_bus, List.append_assoc, List.singleton_append]

@[simp] theorem State.push16_bus (v : Word) :
    (s.push16 v).trace.bus =
      s.trace.bus ++ [.writeMemory (s.sp - 1) (hiByte v), .writeMemory (s.sp - 2) (loByte v)] :=
  List.append_assoc ..

@[simp] theorem State.pop16_bus :
    s.pop16.2.trace.bus =
      s.trace.bus ++ [.readMemory s.sp (s.peek s.sp), .readMemory (s.sp + 1) (s.peek (s.sp + 1))] :=
  s.memRead16_bus s.sp

@[simp] theorem State.ioRead_bus (p : Word) : (s.ioRead p).2.trace.bus = s.trace.bus ++ [.readIo p (s.portByte p)] := rfl

@[simp] theorem State.ioRead_events (p : Word) :
    (s.ioRead p).2.trace.events = s.trace.events ++ [.read p (s.portByte p)] := rfl

@[simp] theorem State.ioWrite_bus (p : Word) (v : Byte) : (s.ioWrite p v).trace.bus = s.trace.bus ++ [.writeIo p v] := rfl

@[simp] theorem State.ioWrite_events (p : Word) (v : Byte) :
    (s.ioWrite p v).trace.events = s.trace.events ++ [.write p v] := rfl

@[simp] theorem State.memRead_events (a : Word) : (s.memRead a).2.trace.events = s.trace.events := rfl

@[simp] theorem State.memWrite_events (a : Word) (v : Byte) : (s.memWrite a v).trace.events = s.trace.events := rfl

/-! ## Stores seen through an update that touches no memory -/

theorem StoresByte.of_eq {s t u : State} {a : Word} {v : Byte} (h : StoresByte s t a v) (hc : u.cfg = t.cfg)
    (hm : u.mem = t.mem) : StoresByte s u a v := fun k => (State.peek_congr t hc hm k).trans (h k)

theorem StoresWord.of_eq {s t u : State} {a v : Word} (h : StoresWord s t a v) (hc : u.cfg = t.cfg)
    (hm : u.mem = t.mem) : StoresWord s u a v := fun k => (State.peek_congr t hc hm k).trans (h k)

theorem StoresByte.from_eq {s u t : State} {a : Word} {v : Byte} (h : StoresByte u t a v) (hc : u.cfg = s.cfg)
    (hm : u.mem = s.mem) : StoresByte s t a v := fun k => by
  rw [h k, State.peek_congr s hc hm k, State.writable_congr s hc a]

theorem StoresWord.from_eq {s u t : State} {a v : Word} (h : StoresWord u t a v) (hc : u.cfg = s.cfg)
    (hm : u.mem = s.mem) : StoresWord s t a v := fun k => by
  rw [h k, State.peek_congr s hc hm k, State.writable_congr s hc a, State.writable_congr s hc (a + 1)]

/-! ## Operand forms -/

/-- A read, then a write of the same byte, stores it and nothing else. -/
theorem State.readWrite_rewrites (a : Word) (v : Byte) : Rewrites s a v [] ((s.memRead a).2.memWrite a v) :=
  ⟨StoresByte.from_eq (u := (s.memRead a).2) ((s.memRead a).2.memWrite_stores a v) rfl rfl,
    ⟨by simp [Ops], rfl⟩, rfl⟩

theorem State.storeAt_rewrites (a : Word) (v : Byte) : Rewrites s a v [] (s.storeAt a v) := s.readWrite_rewrites a v

theorem State.modifyAt_rewrites (a : Word) (f : Byte → Byte) : Rewrites s a (f (s.peek a)) [] (s.modifyAt a f) :=
  s.readWrite_rewrites a _

theorem State.storeAt16_stores (a v : Word) : StoresWord s (s.storeAt16 a v) a v :=
  StoresWord.from_eq (u := (s.memRead a).2) ((s.memRead a).2.memWrite16_stores a v) rfl rfl

theorem State.storeAt16_bus (a v : Word) :
    Bus s (s.storeAt16 a v) [.readMemory a (s.peek a), .writeMemory a (loByte v), .writeMemory (a + 1) (hiByte v)] := by
  exact ⟨by simp [Ops, State.storeAt16], rfl⟩

theorem State.push16_pushes (v : Word) : Pushes s (s.push16 v) v :=
  ⟨rfl, s.push16_stores v, s.push16_bus v, rfl⟩

theorem State.pop16_pops : Pops s s.pop16.2 := ⟨rfl, s.pop16_bus, rfl⟩

/-! ## Frames -/

theorem State.setReg_frame (q : Reg8) (v : Byte) : SameBut [.reg q] s (s.setReg q v) := by cases q <;> rfl

theorem State.setPair_frame (q : Rp) (v : Word) : SameBut (pairParts q) s (s.setPair q v) := by cases q <;> rfl

theorem State.setIdx_frame (x : Idx) (v : Word) : SameBut [.idx x] s (s.setIdx x v) := by cases x <;> rfl

theorem State.setHalf_frame (x : Idx) (h : Half) (v : Byte) : SameBut [.idx x] s (s.setHalf x h v) := by
  cases x <;> cases h <;> rfl

theorem State.memRead_frame (a : Word) : SameBut [.bus] s (s.memRead a).2 := rfl

theorem State.memWrite_frame (a : Word) (v : Byte) : SameBut [.mem, .bus] s (s.memWrite a v) := rfl

theorem State.memRead16_frame (a : Word) : SameBut [.bus] s (s.memRead16 a).2 := rfl

theorem State.memWrite16_frame (a v : Word) : SameBut [.mem, .bus] s (s.memWrite16 a v) := rfl

theorem State.storeAt16_frame (a v : Word) : SameBut [.mem, .bus] s (s.storeAt16 a v) := rfl

theorem State.push16_frame (v : Word) : SameBut [.sp, .mem, .bus] s (s.push16 v) := rfl

theorem State.pop16_frame : SameBut [.sp, .bus] s s.pop16.2 := rfl

theorem State.ioRead_frame (p : Word) : SameBut [.bus, .events, .answers] s (s.ioRead p).2 := rfl

theorem State.ioWrite_frame (p : Word) (v : Byte) : SameBut [.bus, .events] s (s.ioWrite p v) := rfl

theorem State.writeFlags_frame (w : FlagWrite) : SameBut [.flags, .draws] s (s.writeFlags w) := by
  simp only [SameBut, List.foldl, Part.restore, State.writeFlags]

theorem State.writeFlagsUndoc_frame (w : FlagWrite) (a b : Bool) :
    SameBut [.flags, .draws] s (s.writeFlagsUndoc w a b) := by
  simp only [SameBut, List.foldl, Part.restore, State.writeFlagsUndoc, State.writeFlags]

/-! ## The flag write -/

/-- The six documented flags after a flag write: the named ones, and the old value of the others (40 R174). -/
theorem State.writeFlags_flags (w : FlagWrite) :
    FlagsAre (s.writeFlags w).main.f (w.s.getD s.main.f.s) (w.z.getD s.main.f.z) (w.h.getD s.main.f.h)
      (w.pv.getD s.main.f.pv) (w.n.getD s.main.f.n) (w.c.getD s.main.f.c) :=
  ⟨rfl, rfl, rfl, rfl, rfl, rfl⟩

/-- F5 and F3 after a flag write under `UNDOC_F53 = z80` (40 R177). -/
theorem State.writeFlags_undoc (w : FlagWrite) : UndocAre s (s.writeFlags w) w.z5 w.z3 := by
  intro h; simp [State.writeFlags, State.undocF53, h]

theorem State.writeFlagsUndoc_undoc (w : FlagWrite) (a b : Bool) : UndocAre s (s.writeFlagsUndoc w a b) w.z5 w.z3 := by
  intro h; simp [State.writeFlagsUndoc, State.writeFlags, State.undocF53, h]

/-- S and PV after the undocumented flag write under `UNDOC_FLAGS = z80` (40 R178). -/
theorem State.writeFlagsUndoc_spv (w : FlagWrite) (a b : Bool) : UndocSPv s (s.writeFlagsUndoc w a b) a b := by
  intro h; simp [State.writeFlagsUndoc, State.writeFlags, State.undocFlag, h]

end Sys2Proof.Machine
end

