-- ==== Sys2Proof/Laws/Bus.lean ====
section
/-! SUPPORT. Laws/Bus: what clocking can change on the signal surface, whatever the environment does, and what it is in a quiet
environment. -/

namespace Sys2Proof.Machine

/-! ## What clock edges and signals can change -/

/-- What clocking leaves: the halt condition, the clock driver's end, and the reason of a phase that never ended. -/
def Clocked (s t : Surface) : Prop := t.halted = s.halted ∧ t.clockEnds = s.clockEnds ∧ t.stuck = s.stuck

theorem Clocked.refl (s : Surface) : Clocked s s := ⟨rfl, rfl, rfl⟩

theorem Clocked.trans {s t u : Surface} (h1 : Clocked s t) (h2 : Clocked t u) : Clocked s u :=
  ⟨h2.1.trans h1.1, h2.2.1.trans h1.2.1, h2.2.2.trans h1.2.2⟩

theorem Surface.signal_clocked (s : Surface) (x : Signal) : Clocked s (s.signal x) := by cases x <;> exact ⟨rfl, rfl, rfl⟩

theorem Surface.signals_clocked (s : Surface) (e : Edge) : Clocked s (s.signals e) := by
  induction e generalizing s with
  | nil => exact .refl s
  | cons x e ih => exact (s.signal_clocked x).trans (ih (s.signal x))

@[simp] theorem Surface.signal_lines (s : Surface) (x : Signal) : (s.signal x).pins.lines = s.pins.lines := by
  cases x <;> rfl

@[simp] theorem Surface.signals_lines (s : Surface) (e : Edge) : (s.signals e).pins.lines = s.pins.lines := by
  induction e generalizing s with
  | nil => rfl
  | cons x e ih => exact (ih (s.signal x)).trans (s.signal_lines x)

/-- An edge that answers leaves no kill pending. -/
theorem Surface.takeEdge_ok {s t : Surface} {e : Edge} {rest : List Edge} (h : s.takeEdge e rest = .ok t) :
    Clocked s t ∧ t.pins.lines = s.pins.lines ∧ t.kill = false ∧
      t = ({ s with clock := rest }.retire 1).signals e := by
  unfold Surface.takeEdge at h
  dsimp only at h
  split at h
  · cases h
  · next hk =>
    cases h
    refine ⟨?_, by simp, by simpa using hk, rfl⟩
    have h1 : Clocked s ({ s with clock := rest }.retire 1) := ⟨rfl, rfl, rfl⟩
    exact h1.trans (Surface.signals_clocked _ _)

theorem holdWhile_ok {held : Surface → Bool} {stuck : Fault} {es : List Edge} {s t : Surface}
    (h : holdWhile held stuck es s = .ok t) :
    Clocked s t ∧ t.pins.lines = s.pins.lines ∧ (s.kill = false → t.kill = false) ∧ held t = false := by
  induction es generalizing s with
  | nil =>
    simp only [holdWhile] at h
    split at h
    · cases h
    · next hh => cases h; exact ⟨.refl _, rfl, id, by simpa using hh⟩
  | cons e rest ih =>
    simp only [holdWhile] at h
    split at h
    · split at h
      · next u hu =>
        obtain ⟨a, b, c, -⟩ := Surface.takeEdge_ok hu
        obtain ⟨a', b', c', d'⟩ := ih h
        exact ⟨a.trans a', b'.trans b, fun _ => c' c, d'⟩
      · cases h
    · next hh => cases h; exact ⟨.refl _, rfl, id, by simpa using hh⟩

theorem Surface.edge_ok {s t : Surface} (h : s.edge = .ok t) :
    Clocked s t ∧ t.pins.lines = s.pins.lines ∧ (s.kill = false → t.kill = false) := by
  unfold Surface.edge at h
  split at h
  · split at h
    · cases h
    · cases h; exact ⟨⟨rfl, rfl, rfl⟩, rfl, id⟩
  · obtain ⟨a, b, c, -⟩ := Surface.takeEdge_ok h
    exact ⟨a, b, fun _ => c⟩

theorem Surface.phase_ok {s t : Surface} {l : Lines} (h : s.phase l = .ok t) :
    Clocked s t ∧ t.pins.lines = l ∧ (s.kill = false → t.kill = false) := by
  unfold Surface.phase at h
  split at h
  · next u hu =>
    obtain ⟨a, b, c⟩ := Surface.edge_ok hu
    obtain ⟨a', b', c', -⟩ := holdWhile_ok h
    exact ⟨a.trans a', b'.trans b, fun hk => c' (c hk)⟩
  · cases h

theorem Surface.runPhases_ok {ls : List Lines} {s t : Surface} (h : s.runPhases ls = .ok t) :
    Clocked s t ∧ (s.kill = false → t.kill = false) := by
  induction ls generalizing s with
  | nil => cases h; exact ⟨.refl _, id⟩
  | cons l rest ih =>
    simp only [Surface.runPhases] at h
    split at h
    · next u hu =>
      obtain ⟨a, -, c⟩ := Surface.phase_ok hu
      obtain ⟨a', c'⟩ := ih h
      exact ⟨a.trans a', fun hk => c' (c hk)⟩
    · cases h

theorem Surface.handOff_ok {s t : Surface} (h : s.handOff = .ok t) :
    Clocked s t ∧ (s.kill = false → t.kill = false) := by
  unfold Surface.handOff at h
  split at h
  · obtain ⟨a, -, c, -⟩ := holdWhile_ok h
    exact ⟨a, c⟩
  · cases h; exact ⟨.refl _, id⟩

theorem Surface.runCycle_ok {s t : Surface} {k : BusCycle} (h : s.runCycle k = .ok t) :
    Clocked s t ∧ (s.kill = false → t.kill = false) := by
  unfold Surface.runCycle at h
  split at h
  · next u hu =>
    obtain ⟨a, c⟩ := Surface.handOff_ok hu
    obtain ⟨a', c'⟩ := Surface.runPhases_ok h
    exact ⟨a.trans a', fun hk => c' (c hk)⟩
  · cases h

theorem otherCycles_ok {es : List Edge} {n : Nat} {s t : Surface} (h : otherCycles es n s = .ok t) :
    Clocked s t ∧ t.pins.lines = s.pins.lines ∧ (s.kill = false → t.kill = false) := by
  induction es generalizing n s with
  | nil =>
    simp only [otherCycles] at h
    split at h
    · split at h
      · cases h; exact ⟨.refl _, rfl, id⟩
      · cases h
    · split at h
      · split at h
        · cases h; exact ⟨.refl _, rfl, id⟩
        · cases h
      · cases h; exact ⟨⟨rfl, rfl, rfl⟩, rfl, id⟩
  | cons e rest ih =>
    simp only [otherCycles] at h
    split at h
    · cases h; exact ⟨.refl _, rfl, id⟩
    · split at h
      · next u hu =>
        obtain ⟨a, b, c, -⟩ := Surface.takeEdge_ok hu
        obtain ⟨a', b', c'⟩ := ih h
        exact ⟨a.trans a', b'.trans b, fun _ => c' c⟩
      · cases h

theorem Surface.runInternal_ok {s t : Surface} {n : Nat} (h : s.runInternal n = .ok t) :
    Clocked s t ∧ t.pins.lines = {} ∧ (s.kill = false → t.kill = false) := by
  unfold Surface.runInternal at h
  obtain ⟨a, b, c⟩ := otherCycles_ok h
  exact ⟨a, b, c⟩

/-! ## The surface after it -/

/-- Clocking a surface ends where the clocking answers, or leaves the surface stuck. -/
theorem Surface.after_cases (s : Surface) (run : Except Fault Surface) :
    (∃ f, s.stuck = some f ∧ s.after run = s) ∨ (s.stuck = none ∧ run = .ok (s.after run)) ∨
      ∃ f, s.stuck = none ∧ run = .error f ∧ s.after run = { s with stuck := some f } := by
  unfold Surface.after
  cases hs : s.stuck with
  | some f => exact .inl ⟨f, rfl, rfl⟩
  | none =>
    cases run with
    | ok t => exact .inr (.inl ⟨rfl, rfl⟩)
    | error f => exact .inr (.inr ⟨f, rfl, rfl, rfl⟩)

@[simp] theorem Surface.after_ok (s : Surface) (h : s.stuck = none) (t : Surface) : s.after (.ok t) = t := by
  simp [Surface.after, h]

theorem Surface.after_error (s : Surface) (h : s.stuck = none) (f : Fault) :
    s.after (.error f) = { s with stuck := some f } := by simp [Surface.after, h]

/-- A stuck surface takes no edge. -/
theorem Surface.after_stuck {s : Surface} {f : Fault} (h : s.stuck = some f) (run : Except Fault Surface) :
    s.after run = s := by simp [Surface.after, h]

/-- A surface that is not stuck after a bus operation was not before, and the operation's phases ended. -/
theorem Surface.cycle_cases (s : Surface) (k : BusCycle) :
    (s.cycle k).halted = s.halted ∧ (s.kill = false → (s.cycle k).kill = false) ∧
      ((s.cycle k).stuck = none → s.stuck = none ∧ s.runCycle k = .ok (s.cycle k)) := by
  unfold Surface.cycle
  rcases s.after_cases (s.runCycle k) with ⟨f, h, e⟩ | ⟨h, e⟩ | ⟨f, h, e, e'⟩
  · rw [e]; exact ⟨rfl, id, fun h' => by simp [h] at h'⟩
  · obtain ⟨a, b⟩ := Surface.runCycle_ok e
    exact ⟨a.1, b, fun _ => ⟨h, e⟩⟩
  · rw [e']; exact ⟨rfl, id, fun h' => by simp at h'⟩

@[simp] theorem Surface.cycle_halted (s : Surface) (k : BusCycle) : (s.cycle k).halted = s.halted := (s.cycle_cases k).1

theorem Surface.cycle_kill {s : Surface} (h : s.kill = false) (k : BusCycle) : (s.cycle k).kill = false :=
  (s.cycle_cases k).2.1 h

theorem Surface.internal_cases (s : Surface) (n : Nat) :
    (s.internal n).halted = s.halted ∧ (s.kill = false → (s.internal n).kill = false) ∧
      ((s.internal n).stuck = none → s.stuck = none ∧ (s.internal n).pins.lines = {}) := by
  unfold Surface.internal
  rcases s.after_cases (s.runInternal n) with ⟨f, h, e⟩ | ⟨h, e⟩ | ⟨f, h, e, e'⟩
  · rw [e]; exact ⟨rfl, id, fun h' => by simp [h] at h'⟩
  · obtain ⟨a, b, c⟩ := Surface.runInternal_ok e
    exact ⟨a.1, c, fun _ => ⟨h, b⟩⟩
  · rw [e']; exact ⟨rfl, id, fun h' => by simp at h'⟩

@[simp] theorem Surface.operations_nil (s : Surface) : s.operations [] = s := rfl

@[simp] theorem Surface.operations_cons (s : Surface) (op : BusOp) (ops : List BusOp) :
    s.operations (op :: ops) = (s.cycle op.cycle).release.operations ops := rfl

theorem Surface.operations_append (s : Surface) (xs ys : List BusOp) :
    s.operations (xs ++ ys) = (s.operations xs).operations ys := List.foldl_append ..

/-- Bus operations keep the halt condition, bring no kill to the next step, and leave the lines deasserted. -/
theorem Surface.operations_cases (s : Surface) (ops : List BusOp) :
    (s.kill = false → (s.operations ops).kill = false) ∧ (s.pins.lines = {} → (s.operations ops).pins.lines = {}) ∧
      ((s.operations ops).stuck = none → s.stuck = none) := by
  induction ops generalizing s with
  | nil => exact ⟨id, id, id⟩
  | cons op ops ih =>
    obtain ⟨a, b, c⟩ := ih (s.cycle op.cycle).release
    exact ⟨fun h => a (Surface.cycle_kill h _), fun _ => b rfl, fun h => ((s.cycle_cases op.cycle).2.2 (c h)).1⟩

/-- A step that ends well ends in a state that no phase has stopped. -/
theorem toOut_next {s t : State} (h : toOut s = .next t) : t = s ∧ s.stuck = none := by
  unfold toOut at h
  split at h
  · next hs => cases h; exact ⟨rfl, hs⟩
  · cases h

theorem toOut_ok {s : State} (h : s.stuck = none) : toOut s = .next s := by simp [toOut, h]

/-! ## A quiet environment -/

theorem Surface.edge_quiet {s : Surface} (h1 : s.clock = []) (h2 : s.clockEnds = false) : s.edge = .ok (s.retire 1) := by
  simp [Surface.edge, h1, h2]

/-- In a quiet environment a phase is one edge with the phase's lines. -/
theorem Surface.phase_quiet {s : Surface} (h1 : s.clock = []) (h2 : s.clockEnds = false) (h5 : s.pins.waitSources = [])
    (l : Lines) : s.phase l = .ok ((s.publish l).retire 1) := by
  have h : (s.publish l).edge = .ok ((s.publish l).retire 1) := Surface.edge_quiet h1 h2
  simp only [Surface.phase, h, Surface.retire_clock, Surface.publish_clock, h1, holdWhile]
  simp [Surface.wait, Surface.publish, h5]

theorem Surface.handOff_quiet {s : Surface} (h3 : s.pins.busreqSources = []) : s.handOff = .ok s := by
  simp [Surface.handOff, Surface.busreq, h3]

/-- In a quiet environment phases are one edge each. -/
theorem Surface.runPhases_quiet {s : Surface} (h1 : s.clock = []) (h2 : s.clockEnds = false)
    (h5 : s.pins.waitSources = []) (ls : List Lines) :
    s.runPhases ls = .ok (ls.foldl (fun t l => (t.publish l).retire 1) s) := by
  induction ls generalizing s with
  | nil => rfl
  | cons l rest ih =>
    simp only [Surface.runPhases, Surface.phase_quiet h1 h2 h5 l, List.foldl]
    exact ih (s := (s.publish l).retire 1) h1 h2 h5

/-- In a quiet environment a bus operation is its kind and one edge for each phase. -/
theorem Surface.cycle_quiet {s : Surface} (h1 : s.clock = []) (h2 : s.clockEnds = false) (h3 : s.pins.busreqSources = [])
    (h5 : s.pins.waitSources = []) (h7 : s.stuck = none) (k : BusCycle) :
    s.cycle k = k.phases.foldl (fun t l => (t.publish l).retire 1) (s.setKind k.kind) := by
  unfold Surface.cycle Surface.runCycle
  rw [Surface.handOff_quiet h3]
  simp only [Surface.runPhases_quiet (s := s.setKind k.kind) h1 h2 h5, Surface.after_ok s h7]

theorem Surface.runInternal_quiet {s : Surface} (h1 : s.clock = []) (h2 : s.clockEnds = false)
    (h5 : s.pins.waitSources = []) (n : Nat) :
    s.runInternal n =
      .ok ({ s with pins := { s.pins with lines := {}, mcycle := if n = 0 then s.pins.mcycle else .other } }.retire n) := by
  simp [Surface.runInternal, h1, otherCycles, h2, Surface.wait, h5]

end Sys2Proof.Machine
end

