-- ==== Sys2Proof/Laws/Decode.lean ====
section
/-! SUPPORT. Laws/Decode: what the decoder and the fetch loop can do. An answered instruction leaves the decoder empty and is
no prefix row. -/

namespace Sys2Proof

open Sys2Proof.Machine (isPrefixRow)

/-- A finished value never stands for a prefix row: its instruction comes from an entry (30 R122 step 5). -/
theorem Decoded.toInstr_not_prefix (p : Pfx) (d : Decoded) : isPrefixRow (d.toInstr p) = false := by
  unfold Decoded.toInstr
  cases d.mnemonic <;>
    simp only [ldInstr, pushInstr, popInstr, exInstr, jpInstr, inInstr, outInstr, addInstr, carryInstr, aluInstr,
      incDecInstr, cbInstr, altInstr] <;>
    (repeat' split) <;> rfl

/-- `t` is a progress state that has answered nothing yet, or the empty state after an answer. -/
def Decoder.Answers (r : Decoder × Option Instr) : Prop :=
  ∀ i, r.2 = some i → r.1 = Decoder.empty ∧ isPrefixRow i = false

theorem finalize_answers (p : Pfx) (d : Decoded) : Decoder.Answers (finalize p d) := by
  rintro i ⟨⟩
  exact ⟨rfl, d.toInstr_not_prefix p⟩

theorem Decoder.answers_none (s : Decoder) : Decoder.Answers (s, none) := fun _ h => nomatch h

theorem Decoder.cache_answers (s : Decoder) (e : Entry) : Decoder.Answers (s.cache e) := by
  unfold Decoder.cache
  split
  · exact finalize_answers _ _
  · exact Decoder.answers_none _

theorem Decoder.decodeDDFD_answers (s : Decoder) (x : Idx) (b : Byte) : Decoder.Answers (s.decodeDDFD x b) := by
  unfold Decoder.decodeDDFD
  repeat' split
  · exact Decoder.answers_none _
  · exact s.cache_answers _
  · exact s.cache_answers _

theorem Decoder.feedOpcode_answers (s : Decoder) (b : Byte) : Decoder.Answers (s.feedOpcode b) := by
  unfold Decoder.feedOpcode
  repeat' split
  all_goals first
    | exact s.cache_answers _
    | exact s.decodeDDFD_answers _ _
    | exact Decoder.answers_none _

/-- `feed`: an answer leaves the empty state and is no prefix row. -/
theorem Decoder.feed_answers (s : Decoder) (b : Byte) : Decoder.Answers (s.feed b) := by
  unfold Decoder.feed Decoder.resolveAlt
  repeat' split
  all_goals first
    | exact finalize_answers _ _
    | exact Decoder.answers_none _
    | exact s.feedOpcode_answers b

end Sys2Proof

namespace Sys2Proof.Machine

/-- Taking the next byte changes PC, R, the mode-0 byte and the record of bus operations. -/
theorem State.nextByte_frame (s : State) : SameBut [.pc, .refreshR, .mode0Byte, .bus] s s.nextByte.2 := by
  unfold State.nextByte
  split
  · rfl
  · cases s.decoder.expectsOpcode <;> rfl

/-- One turn of the fetch loop changes the decoder besides. -/
theorem State.feedNext_frame (s : State) : SameBut [.pc, .refreshR, .mode0Byte, .bus, .decoder] s s.feedNext.1 := by
  have key (u : State) (d : Decoder) (h : SameBut [.pc, .refreshR, .mode0Byte, .bus] s u) :
      SameBut [.pc, .refreshR, .mode0Byte, .bus, .decoder] s { u with decoder := d } := by
    have h' := congrArg (fun v : State => { v with decoder := s.decoder }) h
    exact h'
  exact key s.nextByte.2 _ s.nextByte_frame

/-- What a fetch changes, and that it ends with an empty decoder on an instruction that is no prefix row. -/
theorem fetchDecode_ok {n : Nat} {s t : State} {i : Instr} (h : fetchDecode n s = some (i, t)) :
    SameBut [.pc, .refreshR, .mode0Byte, .bus, .decoder] s t ∧ t.decoder = Decoder.empty ∧ isPrefixRow i = false := by
  induction n generalizing s with
  | zero => exact nomatch h
  | succ n ih =>
    unfold fetchDecode at h
    split at h
    · rename_i u j hu
      obtain ⟨rfl, rfl⟩ : j = i ∧ u = t := by simpa using h
      have hf := s.feedNext_frame
      have ha := s.nextByte.2.decoder.feed_answers s.nextByte.1 j (congrArg Prod.snd hu)
      rw [hu] at hf
      exact ⟨hf, (congrArg (fun r : State × Option Instr => r.1.decoder) hu).symm.trans ha.1, ha.2⟩
    · rename_i u hu
      have hf := s.feedNext_frame
      rw [hu] at hf
      obtain ⟨h1, h2⟩ := ih h
      refine ⟨?_, h2⟩
      have h1' : Part.restore u (Part.restore u (Part.restore u (Part.restore u (Part.restore u t .pc) .refreshR) .mode0Byte)
        .bus) .decoder = u := h1
      have hf' : Part.restore s (Part.restore s (Part.restore s (Part.restore s (Part.restore s u .pc) .refreshR) .mode0Byte)
        .bus) .decoder = s := hf
      show Part.restore s (Part.restore s (Part.restore s (Part.restore s (Part.restore s t .pc) .refreshR) .mode0Byte)
        .bus) .decoder = s
      conv_rhs => rw [← hf', ← h1']
      rfl

end Sys2Proof.Machine
end

