-- ==== Sys2Proof/Tests/Slice0.lean ====
section
/-! SUPPORT. Slice0: the model's own tests. Expected values come from the opcode table and from the examples and vectors of
spec 95; the witnesses show that the hypotheses of the obligations can be met. -/

namespace Sys2Proof.Tests

open Sys2Proof.Machine

/-! ## WellFormed refuses each ill-formed operand -/

theorem test_wf_ld_at_hl_pair_a : (Instr.ldAtRrA .hl).wf = false := by decide
theorem test_wf_ld_a_at_sp_pair : (Instr.ldAAtRr .sp).wf = false := by decide
theorem test_wf_jr_po : (Instr.jrCc .po 0).wf = false := by decide
theorem test_wf_rst_01 : (Instr.rst 0x01).wf = false := by decide
theorem test_wf_ld_h_xh : (Instr.ldRXHalf .h .ix .hi).wf = false := by decide
theorem test_wf_ld_at_xd_l : (Instr.ldAtXdR .iy 0 .l).wf = false := by decide

/-! ## Decoding: a word of the opcode table for every constructor, with the operands its field columns give -/

/-- The bytes decode to the instruction and leave the rest. -/
def reads (bytes : List Byte) (i : Instr) (left : List Byte) : Bool :=
  match decode bytes with
  | .ok r => r == (i, left)
  | .error _ => false

def words1 : List (List Byte × Instr) := [
  ([0x00], .nop), ([0x31, 0x34, 0x12], .ldRpNn .sp 0x1234), ([0x12], .ldAtRrA .de), ([0x13], .incRp .de),
  ([0x14], .incR .d), ([0x05], .decR .b), ([0x2E, 0x5A], .ldRN .l 0x5A), ([0x07], .rlca), ([0x08], .exAfAf),
  ([0x39], .addHlRp .sp), ([0x1A], .ldAAtRr .de), ([0x1B], .decRp .de), ([0x0F], .rrca), ([0x10, 0xFE], .djnz 0xFE),
  ([0x17], .rla), ([0x18, 0xFE], .jr 0xFE), ([0x1F], .rra), ([0x38, 0xFE], .jrCc .c 0xFE),
  ([0x22, 0x34, 0x12], .ldAtNnHl 0x1234), ([0x27], .daa), ([0x2A, 0x34, 0x12], .ldHlAtNn 0x1234), ([0x2F], .cpl),
  ([0x32, 0x34, 0x12], .ldAtNnA 0x1234), ([0x34], .incAtHl), ([0x35], .decAtHl), ([0x36, 0x5A], .ldAtHlN 0x5A),
  ([0x37], .scf), ([0x3A, 0x34, 0x12], .ldAAtNn 0x1234), ([0x3F], .ccf), ([0x59], .ldRR .e .c), ([0x7E], .nopEmpty),
  ([0x74], .ldAtHlR .h), ([0x76], .halt), ([0x80], .addAR .b)]

theorem test_decode_words1 : words1.all (fun w => reads w.1 w.2 []) = true := by decide

def words2 : List (List Byte × Instr) := [
  ([0x86], .addAAtHl), ([0x8B], .adcAR .e), ([0x8E], .adcAAtHl), ([0x97], .subR .a), ([0x96], .subAtHl),
  ([0x9A], .sbcAR .d), ([0x9E], .sbcAAtHl), ([0xA5], .andR .l), ([0xA6], .andAtHl), ([0xA9], .xorR .c), ([0xAE], .xorAtHl),
  ([0xB4], .orR .h), ([0xB6], .orAtHl), ([0xB8], .cpR .b), ([0xBE], .cpAtHl), ([0xC8], .retCc .z), ([0xC1], .popRp2 .bc),
  ([0xDA, 0x34, 0x12], .jpCc .c 0x1234), ([0xC3, 0x34, 0x12], .jp 0x1234), ([0xEC, 0x34, 0x12], .callCc .pe 0x1234),
  ([0xC5], .pushRp2 .bc), ([0xC6, 0x5A], .addAN 0x5A), ([0xE7], .rst 0x20), ([0xC9], .ret), ([0xCB], .prefixCB),
  ([0xCD, 0x34, 0x12], .call 0x1234), ([0xCE, 0x5A], .adcAN 0x5A), ([0xD3, 0x5A], .outNA 0x5A), ([0xD6, 0x5A], .subN 0x5A),
  ([0xD9], .exx), ([0xDB, 0x5A], .inAN 0x5A), ([0xDD], .prefixDD), ([0xDE, 0x5A], .sbcAN 0x5A), ([0xE3], .exAtSpHl)]

theorem test_decode_words2 : words2.all (fun w => reads w.1 w.2 []) = true := by decide

def words3 : List (List Byte × Instr) := [
  ([0xE6, 0x5A], .andN 0x5A), ([0xE9], .jpHl), ([0xEB], .exDeHl), ([0xED], .prefixED), ([0xEE, 0x5A], .xorN 0x5A),
  ([0xF3], .di), ([0xF6, 0x5A], .orN 0x5A), ([0xF9], .ldSpHl), ([0xFB], .ei), ([0xFD], .prefixFD),
  ([0xFE, 0x5A], .cpN 0x5A), ([0xCB, 0x07], .rlcR .a), ([0xCB, 0x06], .rlcAtHl), ([0xCB, 0x0A], .rrcR .d),
  ([0xCB, 0x0E], .rrcAtHl), ([0xCB, 0x15], .rlR .l), ([0xCB, 0x16], .rlAtHl), ([0xCB, 0x19], .rrR .c),
  ([0xCB, 0x1E], .rrAtHl), ([0xCB, 0x24], .slaR .h), ([0xCB, 0x26], .slaAtHl), ([0xCB, 0x28], .sraR .b),
  ([0xCB, 0x2E], .sraAtHl), ([0xCB, 0x33], .sllR .e), ([0xCB, 0x36], .sllAtHl), ([0xCB, 0x3F], .srlR .a),
  ([0xCB, 0x3E], .srlAtHl), ([0xCB, 0x7F], .bitR 7 .a), ([0xCB, 0x66], .bitAtHl 4), ([0xCB, 0x8A], .resR 1 .d),
  ([0xCB, 0xB6], .resAtHl 6), ([0xCB, 0xD5], .setR 2 .l), ([0xCB, 0xC6], .setAtHl 0), ([0xED, 0x81], .noni)]

theorem test_decode_words3 : words3.all (fun w => reads w.1 w.2 []) = true := by decide

def words4 : List (List Byte × Instr) := [
  ([0xED, 0x50], .inRC .d), ([0xED, 0x41], .outCR .b), ([0xED, 0x62], .sbcHlRp .hl),
  ([0xED, 0x73, 0x34, 0x12], .ldAtNnRp .sp 0x1234), ([0xED, 0x74], .neg), ([0xED, 0x7D], .retn), ([0xED, 0x46], .im 0),
  ([0xED, 0x47], .ldIA), ([0xED, 0x4A], .adcHlRp .bc), ([0xED, 0x5B, 0x34, 0x12], .ldRpAtNn .de 0x1234),
  ([0xED, 0x4D], .reti), ([0xED, 0x4F], .ldRA), ([0xED, 0x57], .ldAI), ([0xED, 0x5F], .ldAR), ([0xED, 0x67], .rrd),
  ([0xED, 0x6F], .rld), ([0xED, 0x70], .inC), ([0xED, 0x71], .outC0), ([0xED, 0xA0], .ldi), ([0xED, 0xA1], .cpi),
  ([0xED, 0xA2], .ini), ([0xED, 0xA3], .outi), ([0xED, 0xA8], .ldd), ([0xED, 0xA9], .cpd), ([0xED, 0xAA], .ind),
  ([0xED, 0xAB], .outd), ([0xED, 0xB0], .ldir), ([0xED, 0xB1], .cpir), ([0xED, 0xB2], .inir), ([0xED, 0xB3], .otir),
  ([0xED, 0xB8], .lddr), ([0xED, 0xB9], .cpdr), ([0xED, 0xBA], .indr), ([0xED, 0xBB], .otdr)]

theorem test_decode_words4 : words4.all (fun w => reads w.1 w.2 []) = true := by decide

def words5 : List (List Byte × Instr) := [
  ([0xFD, 0x09], .addXRp .iy .bc), ([0xDD, 0x21, 0x34, 0x12], .ldXNn .ix 0x1234),
  ([0xFD, 0x22, 0x34, 0x12], .ldAtNnX .iy 0x1234), ([0xDD, 0x23], .incX .ix), ([0xFD, 0x24], .incXHalf .iy .hi),
  ([0xFD, 0x2D], .decXHalf .iy .lo), ([0xDD, 0x26, 0x5A], .ldXHalfN .ix .hi 0x5A),
  ([0xDD, 0x2A, 0x34, 0x12], .ldXAtNn .ix 0x1234), ([0xFD, 0x2B], .decX .iy), ([0xDD, 0x34, 0xFE], .incAtXd .ix 0xFE),
  ([0xFD, 0x35, 0xFE], .decAtXd .iy 0xFE), ([0xDD, 0x36, 0xFE, 0x5A], .ldAtXdN .ix 0xFE 0x5A),
  ([0xFD, 0x44], .ldRXHalf .b .iy .hi), ([0xDD, 0x63], .ldXHalfR .ix .hi .e), ([0xFD, 0x70, 0xFE], .ldAtXdR .iy 0xFE .b),
  ([0xDD, 0x75, 0xFE], .ldAtXdXHalf .ix 0xFE .lo), ([0xFD, 0x84], .addAXHalf .iy .hi),
  ([0xDD, 0x86, 0xFE], .addAAtXd .ix 0xFE), ([0xDD, 0x8C], .adcAXHalf .ix .hi), ([0xDD, 0x8E, 0xFE], .adcAAtXd .ix 0xFE),
  ([0xFD, 0x94], .subXHalf .iy .hi), ([0xDD, 0x96, 0xFE], .subAtXd .ix 0xFE), ([0xDD, 0x9C], .sbcAXHalf .ix .hi),
  ([0xDD, 0x9E, 0xFE], .sbcAAtXd .ix 0xFE), ([0xFD, 0xA4], .andXHalf .iy .hi), ([0xDD, 0xA6, 0xFE], .andAtXd .ix 0xFE),
  ([0xDD, 0xAC], .xorXHalf .ix .hi), ([0xDD, 0xAE, 0xFE], .xorAtXd .ix 0xFE), ([0xFD, 0xB4], .orXHalf .iy .hi),
  ([0xDD, 0xB6, 0xFE], .orAtXd .ix 0xFE), ([0xDD, 0xBC], .cpXHalf .ix .hi), ([0xDD, 0xBE, 0xFE], .cpAtXd .ix 0xFE),
  ([0xFD, 0xE1], .popX .iy), ([0xDD, 0xE3], .exAtSpX .ix)]

theorem test_decode_words5 : words5.all (fun w => reads w.1 w.2 []) = true := by decide

def words6 : List (List Byte × Instr) := [
  ([0xFD, 0xE5], .pushX .iy), ([0xDD, 0xE9], .jpX .ix), ([0xFD, 0xF9], .ldSpX .iy),
  ([0xDD, 0xCB, 0xFE, 0x04], .rlcAlt .ix 0xFE .h), ([0xFD, 0xCB, 0xFE, 0x06], .rlcAtXd .iy 0xFE),
  ([0xDD, 0xCB, 0xFE, 0x08], .rrcAlt .ix 0xFE .b), ([0xFD, 0xCB, 0xFE, 0x0E], .rrcAtXd .iy 0xFE),
  ([0xFD, 0xCB, 0xFE, 0x13], .rlAlt .iy 0xFE .e), ([0xFD, 0xCB, 0xFE, 0x16], .rlAtXd .iy 0xFE),
  ([0xDD, 0xCB, 0xFE, 0x1F], .rrAlt .ix 0xFE .a), ([0xFD, 0xCB, 0xFE, 0x1E], .rrAtXd .iy 0xFE),
  ([0xDD, 0xCB, 0xFE, 0x22], .slaAlt .ix 0xFE .d), ([0xFD, 0xCB, 0xFE, 0x26], .slaAtXd .iy 0xFE),
  ([0xFD, 0xCB, 0xFE, 0x2D], .sraAlt .iy 0xFE .l), ([0xFD, 0xCB, 0xFE, 0x2E], .sraAtXd .iy 0xFE),
  ([0xFD, 0xCB, 0xFE, 0x31], .sllAlt .iy 0xFE .c), ([0xFD, 0xCB, 0xFE, 0x36], .sllAtXd .iy 0xFE),
  ([0xDD, 0xCB, 0xFE, 0x3C], .srlAlt .ix 0xFE .h), ([0xFD, 0xCB, 0xFE, 0x3E], .srlAtXd .iy 0xFE),
  ([0xFD, 0xCB, 0xFE, 0x71], .bitAtXd 6 .iy 0xFE), ([0xFD, 0xCB, 0xFE, 0xBD], .resAlt 7 .iy 0xFE .l),
  ([0xDD, 0xCB, 0xFE, 0x9E], .resAtXd 3 .ix 0xFE), ([0xDD, 0xCB, 0xFE, 0xC9], .setAlt 1 .ix 0xFE .c),
  ([0xFD, 0xCB, 0xFE, 0xEE], .setAtXd 5 .iy 0xFE)]

theorem test_decode_words6 : words6.all (fun w => reads w.1 w.2 []) = true := by decide

/-- Spec 95 section 2: where the first instruction ends, and the prefixes with no effect. -/
theorem test_decode_prefix_vectors :
    reads [0xDD, 0x46, 0x05] .nopEmpty [0x05] ∧ reads [0xDD, 0x66, 0x03] .nopEmpty [0x03] ∧
    reads [0xDD, 0xED, 0x44] .noni [0x44] ∧ reads [0xDD, 0xDD, 0x21, 0x00, 0x10] .noni [0x21, 0x00, 0x10] ∧
    reads [0xDD, 0x74, 0x01] (.ldAtXdXHalf .ix 0x01 .hi) [] ∧ reads [0xFD, 0xEB] .exDeHl [] ∧
    reads [0xED, 0x77] .nop [] ∧ reads [0xDD, 0x00] .nop [] ∧ reads [0xDD, 0x76] .halt [] ∧
    reads [0xED, 0x4E] (.im 1) [] ∧ reads [0xFD, 0x7C] (.ldRXHalf .a .iy .hi) [] ∧
    reads [0xFD, 0xCB, 0x00, 0x41] (.bitAtXd 0 .iy 0x00) [] ∧ reads [0xDD, 0x29] (.addXRp .ix .x) [] := by decide

/-- Keys of the opcode table: LD BC,nn with its operand bytes zero, SET 0,(HL), SLL_ALT B,(IX+0). -/
theorem test_table_words :
    decodeTableWord 24 0x01 = some (.ldRpNn .bc 0) ∧ decodeTableWord 16 0xCBC6 = some (.setAtHl 0) ∧
    decodeTableWord 24 0xDDCB30 = some (.sllAlt .ix 0 .b) := by decide

/-! ## One step -/

/-- The zeroed state of spec 95, with the undocumented bits under `z80` so that a run can be evaluated. -/
def zero : State := { State.reset with cfg := { defaultParams with undocF53 := .z80, undocFlags := .z80 } }

/-- The bits of F in `mask` are `v`. -/
def flagBits (t : State) (mask v : Byte) : Bool := t.main.f.toByte &&& mask == v

/-- `P` holds after one step from `s` with the cells and the bytes at `org` in memory. -/
def after (org : Word) (bytes : List Byte) (cells : List (Nat × Byte)) (s : State) (P : State → Bool) : Bool :=
  match step { s with pc := org, mem := Memory.place (cells.foldl (fun m c => m.write c.1 c.2) s.mem) org bytes } with
  | .next t => P t
  | .fault _ | .refused _ => false

/-! ## Loads, stack, exchanges (spec 95 section 3.1) -/

/-- R201. -/
theorem test_ld_r_r :
    (after 0x0100 [0x41] [] { zero with main.c := 0x55 } fun t =>
      t.pair .bc = 0x5555 ∧ t.r = 0x01 ∧ t.pc = 0x0101 ∧ flagBits t 0xD7 0x00) := by decide

/-- R202. -/
theorem test_ld_r_n :
    (after 0x0100 [0x3E, 0x99] [] zero fun t =>
      t.main.a = 0x99 ∧ t.r = 0x01 ∧ t.pc = 0x0102 ∧ flagBits t 0xD7 0x00) := by decide

/-- R203. -/
theorem test_ld_mem_r :
    (after 0x0100 [0x70] [] { zero with main.h := 0x80, main.l := 0x00, main.b := 0x12 } fun t =>
      t.r = 0x01 ∧ t.pc = 0x0101 ∧ t.peek 0x8000 = 0x12 ∧ flagBits t 0xD7 0x00) ∧
    (after 0x0100 [0xDD, 0x77, 0xFE] [] { zero with main.a := 0xAB, ix := 0x8002 } fun t =>
      t.r = 0x02 ∧ t.pc = 0x0103 ∧ t.peek 0x8000 = 0xAB ∧ flagBits t 0xD7 0x00) := by decide

/-- R204. -/
theorem test_ld_mem_n :
    (after 0x0100 [0x36, 0x5A] [] { zero with main.h := 0x80, main.l := 0x00 } fun t =>
      t.r = 0x01 ∧ t.pc = 0x0102 ∧ t.peek 0x8000 = 0x5A ∧ flagBits t 0xD7 0x00) ∧
    (after 0x0100 [0xFD, 0x36, 0x05, 0x77] [] { zero with iy := 0x9000 } fun t =>
      t.r = 0x02 ∧ t.pc = 0x0104 ∧ t.peek 0x9005 = 0x77 ∧ flagBits t 0xD7 0x00) := by decide

/-- R205. -/
theorem test_empty_entry_loads_nothing :
    (after 0x0100 [0x7E] [(0x8000, 0x42)] { zero with main.h := 0x80, main.l := 0x00 } fun t =>
      t.r = 0x01 ∧ t.pc = 0x0101 ∧ flagBits t 0xD7 0x00) := by decide

/-- R206. -/
theorem test_ld_a_rr :
    (after 0x0100 [0x0A] [(0x8000, 0x33)] { zero with main.b := 0x80, main.c := 0x00 } fun t =>
      t.main.a = 0x33 ∧ t.r = 0x01 ∧ t.pc = 0x0101 ∧ flagBits t 0xD7 0x00) := by decide

/-- R207. -/
theorem test_ld_rr_a :
    (after 0x0100 [0x12] [] { zero with main.d := 0x80, main.e := 0x01, main.a := 0x44 } fun t =>
      t.r = 0x01 ∧ t.pc = 0x0101 ∧ t.peek 0x8001 = 0x44 ∧ flagBits t 0xD7 0x00) := by decide

/-- R208. -/
theorem test_ld_a_nn :
    (after 0x0100 [0x3A, 0x00, 0x80] [(0x8000, 0x9C)] zero fun t =>
      t.main.a = 0x9C ∧ t.r = 0x01 ∧ t.pc = 0x0103 ∧ flagBits t 0xD7 0x00) := by decide

/-- R209. -/
theorem test_ld_nn_a :
    (after 0x0100 [0x32, 0x34, 0x12] [] { zero with main.a := 0x7E } fun t =>
      t.r = 0x01 ∧ t.pc = 0x0103 ∧ t.peek 0x1234 = 0x7E ∧ flagBits t 0xD7 0x00) := by decide

/-- R210. -/
theorem test_ld_rp_nn :
    (after 0x0100 [0x01, 0x34, 0x12] [] zero fun t =>
      t.pair .bc = 0x1234 ∧ t.r = 0x01 ∧ t.pc = 0x0103 ∧ flagBits t 0xD7 0x00) ∧
    (after 0x0100 [0xDD, 0x21, 0xCD, 0xAB] [] zero fun t =>
      t.ix = 0xABCD ∧ t.r = 0x02 ∧ t.pc = 0x0104 ∧ flagBits t 0xD7 0x00) := by decide

/-- R211. -/
theorem test_ld_hl_nn :
    (after 0x0100 [0x2A, 0x00, 0x80] [(0x8000, 0x34), (0x8001, 0x12)] zero fun t =>
      t.pair .hl = 0x1234 ∧ t.r = 0x01 ∧ t.pc = 0x0103 ∧ flagBits t 0xD7 0x00) := by decide

/-- R212. -/
theorem test_ld_nn_hl_wraps :
    (after 0x0100 [0x22, 0xFF, 0xFF] [] { zero with main.h := 0xBE, main.l := 0xEF } fun t =>
      t.r = 0x01 ∧ t.pc = 0x0103 ∧ t.peek 0x0000 = 0xBE ∧ t.peek 0xFFFF = 0xEF ∧ flagBits t 0xD7 0x00) := by decide

/-- R213. -/
theorem test_ld_nn_rp :
    (after 0x0100 [0xED, 0x73, 0x00, 0x90] [] { zero with sp := 0x1234 } fun t =>
      t.r = 0x02 ∧ t.pc = 0x0104 ∧ t.peek 0x9000 = 0x34 ∧ t.peek 0x9001 = 0x12 ∧ flagBits t 0xD7 0x00) := by decide

/-- R215. -/
theorem test_push :
    (after 0x0100 [0xC5] [] { zero with main.b := 0x12, main.c := 0x34, sp := 0x8000 } fun t =>
      t.r = 0x01 ∧ t.sp = 0x7FFE ∧ t.pc = 0x0101 ∧ t.peek 0x7FFE = 0x34 ∧ t.peek 0x7FFF = 0x12 ∧
        flagBits t 0xD7 0x00) ∧
    (after 0x0100 [0xF5] [] { zero with main.a := 0x12, main.f := .ofByte 0xFF, sp := 0x0001 } fun t =>
      t.r = 0x01 ∧ t.sp = 0xFFFF ∧ t.pc = 0x0101 ∧ t.peek 0x0000 = 0x12 ∧ t.peek 0xFFFF = 0xFF ∧
        flagBits t 0xD7 0xD7) := by decide

/-- R216. -/
theorem test_pop :
    (after 0x0100 [0xF1] [(0x7FFE, 0xD7), (0x7FFF, 0x55)] { zero with sp := 0x7FFE } fun t =>
      t.main.a = 0x55 ∧ t.r = 0x01 ∧ t.sp = 0x8000 ∧ t.pc = 0x0101 ∧ flagBits t 0xD7 0xD7) := by decide

/-- R217. -/
theorem test_ex_de_hl :
    (after 0x0100 [0xEB] [] { zero with main.d := 0x11, main.e := 0x11, main.h := 0x22, main.l := 0x22 } fun t =>
      t.pair .de = 0x2222 ∧ t.pair .hl = 0x1111 ∧ t.r = 0x01 ∧ t.pc = 0x0101 ∧ flagBits t 0xD7 0x00) ∧
    (after 0x0100 [0xDD, 0xEB] [] { zero with main.d := 0x11, main.e := 0x11, main.h := 0x22, main.l := 0x22, ix := 0x3333 } fun t =>
      t.pair .de = 0x2222 ∧ t.pair .hl = 0x1111 ∧ t.r = 0x02 ∧ t.pc = 0x0102 ∧ flagBits t 0xD7 0x00) := by decide

/-- R218. -/
theorem test_ex_af :
    (after 0x0100 [0x08] [] { zero with main.a := 0x12, main.f := .ofByte 0x34, alt.a := 0x56, alt.f := .ofByte 0x78 } fun t =>
      t.main.a = 0x56 ∧ t.alt.a = 0x12 ∧ t.alt.f.toByte = 0x34 ∧ t.r = 0x01 ∧ t.pc = 0x0101 ∧
        flagBits t 0xD7 0x50) := by decide

/-- R219. -/
theorem test_ex_at_sp :
    (after 0x0100 [0xE3] [(0x8000, 0x78), (0x8001, 0x56)] { zero with main.h := 0x12, main.l := 0x34, sp := 0x8000 } fun t =>
      t.pair .hl = 0x5678 ∧ t.r = 0x01 ∧ t.pc = 0x0101 ∧ t.peek 0x8000 = 0x34 ∧ t.peek 0x8001 = 0x12 ∧
        flagBits t 0xD7 0x00) ∧
    (after 0x0100 [0xFD, 0xE3] [(0x8000, 0x78), (0x8001, 0x56)] { zero with sp := 0x8000, iy := 0x1234 } fun t =>
      t.iy = 0x5678 ∧ t.r = 0x02 ∧ t.pc = 0x0102 ∧ t.peek 0x8000 = 0x34 ∧ t.peek 0x8001 = 0x12 ∧
        flagBits t 0xD7 0x00) := by decide

/-- R220. -/
theorem test_exx :
    (after 0x0100 [0xD9] [] { zero with main.b := 0x01, main.c := 0x02, main.d := 0x03, main.e := 0x04, main.h := 0x05, main.l := 0x06, alt.b := 0x0A, alt.c := 0x0B } fun t =>
      t.pair .bc = 0x0A0B ∧ t.pair .de = 0 ∧
        t.alt = { zeroBank with b := 1, c := 2, d := 3, e := 4, h := 5, l := 6 } ∧ t.r = 0x01 ∧
        t.pc = 0x0101 ∧ flagBits t 0xD7 0x00) := by decide

/-- R221. -/
theorem test_ld_rp_at_nn :
    (after 0x0100 [0xED, 0x4B, 0x00, 0x80] [(0x8000, 0x78), (0x8001, 0x56)] zero fun t =>
      t.pair .bc = 0x5678 ∧ t.r = 0x02 ∧ t.pc = 0x0104 ∧ flagBits t 0xD7 0x00) := by decide

/-- R222. -/
theorem test_ld_sp_hl :
    (after 0x0100 [0xF9] [] { zero with main.h := 0x40, main.l := 0x00 } fun t =>
      t.r = 0x01 ∧ t.sp = 0x4000 ∧ t.pc = 0x0101 ∧ flagBits t 0xD7 0x00) := by decide

/-! ## Block instructions (3.2) -/

/-- R242. -/
theorem test_ldi :
    (after 0x0100 [0xED, 0xA0] [(0x1000, 0x5A)] { zero with main.h := 0x10, main.l := 0x00, main.d := 0x20, main.e := 0x00, main.b := 0x00, main.c := 0x01 } fun t =>
      t.pair .bc = 0x0000 ∧ t.pair .de = 0x2001 ∧ t.pair .hl = 0x1001 ∧ t.r = 0x02 ∧ t.pc = 0x0102 ∧
        t.peek 0x2000 = 0x5A ∧ flagBits t 0xD7 0x00) ∧
    (after 0x0100 [0xED, 0xA0] [(0x1000, 0x5A)] { zero with main.h := 0x10, main.l := 0x00, main.d := 0x20, main.e := 0x00, main.b := 0x00, main.c := 0x00 } fun t =>
      t.pair .bc = 0xFFFF ∧ t.pair .de = 0x2001 ∧ t.pair .hl = 0x1001 ∧ t.r = 0x02 ∧ t.pc = 0x0102 ∧
        t.peek 0x2000 = 0x5A ∧ flagBits t 0xD7 0x04) := by decide

/-- R243. -/
theorem test_ldd :
    (after 0x0100 [0xED, 0xA8] [(0x1000, 0x11)] { zero with main.h := 0x10, main.l := 0x00, main.d := 0x20, main.e := 0x00, main.b := 0x00, main.c := 0x02 } fun t =>
      t.pair .bc = 0x0001 ∧ t.pair .de = 0x1FFF ∧ t.pair .hl = 0x0FFF ∧ t.r = 0x02 ∧ t.pc = 0x0102 ∧
        t.peek 0x2000 = 0x11 ∧ flagBits t 0xD7 0x04) := by decide

/-- R246. -/
theorem test_cpi :
    (after 0x0100 [0xED, 0xA1] [(0x1000, 0x10)] { zero with main.a := 0x30, main.h := 0x10, main.l := 0x00, main.b := 0x00, main.c := 0x02 } fun t =>
      t.pair .bc = 0x0001 ∧ t.pair .hl = 0x1001 ∧ t.r = 0x02 ∧ t.pc = 0x0102 ∧ flagBits t 0xD7 0x16) ∧
    (after 0x0100 [0xED, 0xA1] [(0x1000, 0x10)] { zero with main.a := 0x10, main.h := 0x10, main.l := 0x00, main.b := 0x00, main.c := 0x01 } fun t =>
      t.pair .bc = 0x0000 ∧ t.pair .hl = 0x1001 ∧ t.r = 0x02 ∧ t.pc = 0x0102 ∧ flagBits t 0xD7 0x52) := by decide

/-- R247. -/
theorem test_cpd :
    (after 0x0100 [0xED, 0xA9] [(0x1000, 0x02)] { zero with main.a := 0x01, main.h := 0x10, main.l := 0x00, main.b := 0x00, main.c := 0x05 } fun t =>
      t.pair .bc = 0x0004 ∧ t.pair .hl = 0x0FFF ∧ t.r = 0x02 ∧ t.pc = 0x0102 ∧ flagBits t 0xD7 0x86) := by decide

/-- R250. -/
theorem test_ini :
    (after 0x0100 [0xED, 0xA2] [] { zero with main.b := 0x01, main.c := 0x10, main.h := 0x30, main.l := 0x00, portAnswers := [0x77] } fun t =>
      t.pair .bc = 0x0010 ∧ t.pair .hl = 0x3001 ∧ t.r = 0x02 ∧ t.pc = 0x0102 ∧ t.peek 0x3000 = 0x77 ∧
        t.trace.events = [.read 0x0110 0x77] ∧ flagBits t 0x53 0x42) ∧
    (after 0x0100 [0xED, 0xA2] [] { zero with main.b := 0x10, main.c := 0x10, main.h := 0x30, main.l := 0x00, portAnswers := [0x30] } fun t =>
      t.pair .bc = 0x0F10 ∧ t.pair .hl = 0x3001 ∧ t.r = 0x02 ∧ t.pc = 0x0102 ∧ t.peek 0x3000 = 0x30 ∧
        t.trace.events = [.read 0x1010 0x30] ∧ flagBits t 0x53 0x12) := by decide

/-- R251. -/
theorem test_ind :
    (after 0x0100 [0xED, 0xAA] [] { zero with main.b := 0x02, main.c := 0x10, main.h := 0x30, main.l := 0x00, portAnswers := [0x01] } fun t =>
      t.pair .bc = 0x0110 ∧ t.pair .hl = 0x2FFF ∧ t.r = 0x02 ∧ t.pc = 0x0102 ∧ t.peek 0x3000 = 0x01 ∧
        t.trace.events = [.read 0x0210 0x01] ∧ flagBits t 0x53 0x02) := by decide

/-- R254. -/
theorem test_outi :
    (after 0x0100 [0xED, 0xA3] [(0x4000, 0x41)] { zero with main.b := 0x02, main.c := 0x20, main.h := 0x40, main.l := 0x00 } fun t =>
      t.pair .bc = 0x0120 ∧ t.pair .hl = 0x4001 ∧ t.r = 0x02 ∧ t.pc = 0x0102 ∧
        t.trace.events = [.write 0x0120 0x41] ∧ flagBits t 0x53 0x02) := by decide

/-- R255. -/
theorem test_outd :
    (after 0x0100 [0xED, 0xAB] [(0x4000, 0x42)] { zero with main.b := 0x01, main.c := 0x20, main.h := 0x40, main.l := 0x00 } fun t =>
      t.pair .bc = 0x0020 ∧ t.pair .hl = 0x3FFF ∧ t.r = 0x02 ∧ t.pc = 0x0102 ∧
        t.trace.events = [.write 0x0020 0x42] ∧ flagBits t 0x53 0x42) := by decide

/-- R244, the vector after 1 step. -/
theorem test_ldir_rewinds :
    (after 0x0100 [0xED, 0xB0] [(0x1000, 0x01)] { zero with main.h := 0x10, main.l := 0x00, main.d := 0x20, main.e := 0x00, main.b := 0x00, main.c := 0x03 } fun t =>
      t.pair .bc = 0x0002 ∧ t.pair .de = 0x2001 ∧ t.pair .hl = 0x1001 ∧ t.r = 0x02 ∧ t.pc = 0x0100 ∧
        t.peek 0x2000 = 0x01 ∧ flagBits t 0xD7 0x04) := by decide

/-- R245, the second step of its vector. -/
theorem test_lddr_ends :
    (after 0x0100 [0xED, 0xB8] [(0x1000, 0x07)] { zero with main.h := 0x10, main.l := 0x00, main.d := 0x20, main.e := 0x00, main.b := 0x00, main.c := 0x01 } fun t =>
      t.pair .bc = 0x0000 ∧ t.pair .de = 0x1FFF ∧ t.pair .hl = 0x0FFF ∧ t.r = 0x02 ∧ t.pc = 0x0102 ∧
        t.peek 0x2000 = 0x07 ∧ flagBits t 0xD7 0x00) := by decide

/-- R248, the second step of its vector. -/
theorem test_cpir_match :
    (after 0x0100 [0xED, 0xB1] [(0x1001, 0x33)] { zero with main.a := 0x33, main.h := 0x10, main.l := 0x01, main.b := 0x00, main.c := 0x04 } fun t =>
      t.pair .bc = 0x0003 ∧ t.pair .hl = 0x1002 ∧ t.r = 0x02 ∧ t.pc = 0x0102 ∧ flagBits t 0xD7 0x56) := by decide

/-- R249, the first step of its vector, by hand: 0x99 - 0x22 = 0x77, 0x99 & 0x22 has bit 4 clear. -/
theorem test_cpdr_rewinds :
    (after 0x0100 [0xED, 0xB9] [(0x1001, 0x22)] { zero with main.a := 0x99, main.h := 0x10, main.l := 0x01, main.b := 0x00, main.c := 0x02 } fun t =>
      t.pair .bc = 0x0001 ∧ t.pair .hl = 0x1000 ∧ t.r = 0x02 ∧ t.pc = 0x0100 ∧ flagBits t 0xD7 0x06) := by decide

/-- R252, the first step of its vector. -/
theorem test_inir_rewinds :
    (after 0x0100 [0xED, 0xB2] [] { zero with main.b := 0x02, main.c := 0x10, main.h := 0x30, main.l := 0x00, portAnswers := [0x05] } fun t =>
      t.pair .bc = 0x0110 ∧ t.pair .hl = 0x3001 ∧ t.r = 0x02 ∧ t.pc = 0x0100 ∧ t.peek 0x3000 = 0x05 ∧
        t.trace.events = [.read 0x0210 0x05] ∧ flagBits t 0x53 0x02) := by decide

/-- R253, the second step of its vector. -/
theorem test_indr_ends :
    (after 0x0100 [0xED, 0xBA] [] { zero with main.b := 0x01, main.c := 0x10, main.h := 0x30, main.l := 0x00, portAnswers := [0x06] } fun t =>
      t.pair .bc = 0x0010 ∧ t.pair .hl = 0x2FFF ∧ t.r = 0x02 ∧ t.pc = 0x0102 ∧ t.peek 0x3000 = 0x06 ∧
        t.trace.events = [.read 0x0110 0x06] ∧ flagBits t 0x53 0x42) := by decide

/-- R256, the first step of its vector. -/
theorem test_otir_rewinds :
    (after 0x0100 [0xED, 0xB3] [(0x4000, 0x41)] { zero with main.b := 0x02, main.c := 0x20, main.h := 0x40, main.l := 0x00 } fun t =>
      t.pair .bc = 0x0120 ∧ t.pair .hl = 0x4001 ∧ t.r = 0x02 ∧ t.pc = 0x0100 ∧
        t.trace.events = [.write 0x0120 0x41] ∧ flagBits t 0x53 0x02) := by decide

/-- R257, the second step of its vector. -/
theorem test_otdr_ends :
    (after 0x0100 [0xED, 0xBB] [(0x4000, 0x41)] { zero with main.b := 0x01, main.c := 0x20, main.h := 0x40, main.l := 0x00 } fun t =>
      t.pair .bc = 0x0020 ∧ t.pair .hl = 0x3FFF ∧ t.r = 0x02 ∧ t.pc = 0x0102 ∧
        t.trace.events = [.write 0x0020 0x41] ∧ flagBits t 0x53 0x42) := by decide

/-! ## Arithmetic and logic (3.3) -/

/-- R260. -/
theorem test_add :
    (after 0x0100 [0xC6, 0x01] [] { zero with main.a := 0x7F } fun t =>
      t.main.a = 0x80 ∧ t.r = 0x01 ∧ t.pc = 0x0102 ∧ flagBits t 0xD7 0x94) ∧
    (after 0x0100 [0xDD, 0x86, 0x01] [(0x8001, 0x02)] { zero with main.a := 0x01, ix := 0x8000 } fun t =>
      t.main.a = 0x03 ∧ t.r = 0x02 ∧ t.pc = 0x0103 ∧ flagBits t 0xD7 0x00) := by decide

/-- R261. -/
theorem test_adc :
    (after 0x0100 [0xCE, 0x00] [] { zero with main.a := 0x0F, main.f := .ofByte 0x01 } fun t =>
      t.main.a = 0x10 ∧ t.r = 0x01 ∧ t.pc = 0x0102 ∧ flagBits t 0xD7 0x10) ∧
    (after 0x0100 [0x8F] [] { zero with main.a := 0x80, main.f := .ofByte 0x01 } fun t =>
      t.main.a = 0x01 ∧ t.r = 0x01 ∧ t.pc = 0x0101 ∧ flagBits t 0xD7 0x05) := by decide

/-- R262. -/
theorem test_sub :
    (after 0x0100 [0xD6, 0x01] [] { zero with main.a := 0x10 } fun t =>
      t.main.a = 0x0F ∧ t.r = 0x01 ∧ t.pc = 0x0102 ∧ flagBits t 0xD7 0x12) ∧
    (after 0x0100 [0xD6, 0x01] [] { zero with main.a := 0x80 } fun t =>
      t.main.a = 0x7F ∧ t.r = 0x01 ∧ t.pc = 0x0102 ∧ flagBits t 0xD7 0x16) := by decide

/-- R263. -/
theorem test_sbc :
    (after 0x0100 [0xDE, 0x00] [] { zero with main.a := 0x00, main.f := .ofByte 0x01 } fun t =>
      t.main.a = 0xFF ∧ t.r = 0x01 ∧ t.pc = 0x0102 ∧ flagBits t 0xD7 0x93) ∧
    (after 0x0100 [0x9F] [] { zero with main.a := 0x01, main.f := .ofByte 0x01 } fun t =>
      t.main.a = 0xFF ∧ t.r = 0x01 ∧ t.pc = 0x0101 ∧ flagBits t 0xD7 0x93) := by decide

/-- R264. -/
theorem test_and :
    (after 0x0100 [0xE6, 0x03] [] { zero with main.a := 0x03 } fun t =>
      t.r = 0x01 ∧ t.pc = 0x0102 ∧ flagBits t 0xD7 0x14) ∧
    (after 0x0100 [0xE6, 0x0F] [] { zero with main.a := 0xF1 } fun t =>
      t.main.a = 0x01 ∧ t.r = 0x01 ∧ t.pc = 0x0102 ∧ flagBits t 0xD7 0x10) := by decide

/-- R265. -/
theorem test_xor :
    (after 0x0100 [0xAF] [] { zero with main.a := 0x5A, main.f := .ofByte 0xFF } fun t =>
      t.main.a = 0x00 ∧ t.r = 0x01 ∧ t.pc = 0x0101 ∧ flagBits t 0xD7 0x44) ∧
    (after 0x0100 [0xEE, 0xFF] [] { zero with main.a := 0x0F } fun t =>
      t.main.a = 0xF0 ∧ t.r = 0x01 ∧ t.pc = 0x0102 ∧ flagBits t 0xD7 0x84) := by decide

/-- R266. -/
theorem test_or :
    (after 0x0100 [0xB0] [] { zero with main.a := 0x01, main.b := 0x02 } fun t =>
      t.main.a = 0x03 ∧ t.r = 0x01 ∧ t.pc = 0x0101 ∧ flagBits t 0xD7 0x04) := by decide

/-- R267. -/
theorem test_cp :
    (after 0x0100 [0xFE, 0x06] [] { zero with main.a := 0x05 } fun t =>
      t.r = 0x01 ∧ t.pc = 0x0102 ∧ flagBits t 0xD7 0x93) ∧
    (after 0x0100 [0xFE, 0x80] [] { zero with main.a := 0x7F } fun t =>
      t.r = 0x01 ∧ t.pc = 0x0102 ∧ flagBits t 0xD7 0x87) := by decide

/-- R268. -/
theorem test_inc :
    (after 0x0100 [0x04] [] { zero with main.b := 0x7F, main.f := .ofByte 0x01 } fun t =>
      t.pair .bc = 0x8000 ∧ t.r = 0x01 ∧ t.pc = 0x0101 ∧ flagBits t 0xD7 0x95) ∧
    (after 0x0100 [0xFD, 0x34, 0xFF] [(0x8000, 0x41)] { zero with iy := 0x8001 } fun t =>
      t.r = 0x02 ∧ t.pc = 0x0103 ∧ t.peek 0x8000 = 0x42 ∧ flagBits t 0xD7 0x00) := by decide

/-- R269. -/
theorem test_dec :
    (after 0x0100 [0x05] [] { zero with main.b := 0x00 } fun t =>
      t.pair .bc = 0xFF00 ∧ t.r = 0x01 ∧ t.pc = 0x0101 ∧ flagBits t 0xD7 0x92) ∧
    (after 0x0100 [0x3D] [] { zero with main.a := 0x80 } fun t =>
      t.main.a = 0x7F ∧ t.r = 0x01 ∧ t.pc = 0x0101 ∧ flagBits t 0xD7 0x16) := by decide

/-- R270. -/
theorem test_inc_pair :
    (after 0x0100 [0x03] [] { zero with main.b := 0xFF, main.c := 0xFF, main.f := .ofByte 0x40 } fun t =>
      t.pair .bc = 0x0000 ∧ t.r = 0x01 ∧ t.pc = 0x0101 ∧ flagBits t 0xD7 0x40) ∧
    (after 0x0100 [0xDD, 0x23] [] { zero with ix := 0x00FF } fun t =>
      t.ix = 0x0100 ∧ t.r = 0x02 ∧ t.pc = 0x0102 ∧ flagBits t 0xD7 0x00) := by decide

/-- R271. -/
theorem test_dec_pair :
    (after 0x0100 [0x1B] [] { zero with main.d := 0x00, main.e := 0x00 } fun t =>
      t.pair .de = 0xFFFF ∧ t.r = 0x01 ∧ t.pc = 0x0101 ∧ flagBits t 0xD7 0x00) ∧
    (after 0x0100 [0xFD, 0x2B] [] { zero with iy := 0x1000 } fun t =>
      t.iy = 0x0FFF ∧ t.r = 0x02 ∧ t.pc = 0x0102 ∧ flagBits t 0xD7 0x00) := by decide

/-- R272. -/
theorem test_add_pair :
    (after 0x0100 [0x09] [] { zero with main.h := 0x0F, main.l := 0xFF, main.b := 0x00, main.c := 0x01 } fun t =>
      t.pair .hl = 0x1000 ∧ t.r = 0x01 ∧ t.pc = 0x0101 ∧ flagBits t 0xD7 0x10) ∧
    (after 0x0100 [0xFD, 0x19] [] { zero with main.d := 0x00, main.e := 0x01, main.f := .ofByte 0xC4, iy := 0xFFFF } fun t =>
      t.iy = 0x0000 ∧ t.r = 0x02 ∧ t.pc = 0x0102 ∧ flagBits t 0xD7 0xD5) := by decide

/-- R273. -/
theorem test_adc_pair :
    (after 0x0100 [0xED, 0x5A] [] { zero with main.h := 0x7F, main.l := 0xFF, main.d := 0x00, main.e := 0x00, main.f := .ofByte 0x01 } fun t =>
      t.pair .hl = 0x8000 ∧ t.r = 0x02 ∧ t.pc = 0x0102 ∧ flagBits t 0xD7 0x94) ∧
    (after 0x0100 [0xED, 0x7A] [] { zero with main.h := 0xFF, main.l := 0xFF, sp := 0x0001 } fun t =>
      t.pair .hl = 0x0000 ∧ t.r = 0x02 ∧ t.pc = 0x0102 ∧ flagBits t 0xD7 0x51) := by decide

/-- R274. -/
theorem test_sbc_pair :
    (after 0x0100 [0xED, 0x52] [] { zero with main.h := 0x80, main.l := 0x00, main.d := 0x00, main.e := 0x01 } fun t =>
      t.pair .hl = 0x7FFF ∧ t.r = 0x02 ∧ t.pc = 0x0102 ∧ flagBits t 0xD7 0x16) ∧
    (after 0x0100 [0xED, 0x62] [] { zero with main.h := 0x12, main.l := 0x34, main.f := .ofByte 0x01 } fun t =>
      t.pair .hl = 0xFFFF ∧ t.r = 0x02 ∧ t.pc = 0x0102 ∧ flagBits t 0xD7 0x93) := by decide

/-- R275. -/
theorem test_daa :
    (after 0x0100 [0x27] [] { zero with main.a := 0x9A } fun t =>
      t.main.a = 0x00 ∧ t.r = 0x01 ∧ t.pc = 0x0101 ∧ flagBits t 0xD7 0x55) ∧
    (after 0x0100 [0x27] [] { zero with main.a := 0x15, main.f := .ofByte 0x02 } fun t =>
      t.r = 0x01 ∧ t.pc = 0x0101 ∧ flagBits t 0xD7 0x02) := by decide

/-- R276. -/
theorem test_cpl :
    (after 0x0100 [0x2F] [] { zero with main.a := 0x5A } fun t =>
      t.main.a = 0xA5 ∧ t.r = 0x01 ∧ t.pc = 0x0101 ∧ flagBits t 0xD7 0x12) := by decide

/-- R277. -/
theorem test_neg :
    (after 0x0100 [0xED, 0x44] [] { zero with main.a := 0x01 } fun t =>
      t.main.a = 0xFF ∧ t.r = 0x02 ∧ t.pc = 0x0102 ∧ flagBits t 0xD7 0x93) ∧
    (after 0x0100 [0xED, 0x44] [] { zero with main.a := 0x80 } fun t =>
      t.r = 0x02 ∧ t.pc = 0x0102 ∧ flagBits t 0xD7 0x87) := by decide

/-- R278. -/
theorem test_scf :
    (after 0x0100 [0x37] [] { zero with main.f := .ofByte 0xD6 } fun t =>
      t.r = 0x01 ∧ t.pc = 0x0101 ∧ flagBits t 0xD7 0xC5) := by decide

/-- R279. -/
theorem test_ccf :
    (after 0x0100 [0x3F] [] { zero with main.f := .ofByte 0x01 } fun t =>
      t.r = 0x01 ∧ t.pc = 0x0101 ∧ flagBits t 0xD7 0x10) ∧
    (after 0x0100 [0x3F] [] { zero with main.f := .ofByte 0x00 } fun t =>
      t.r = 0x01 ∧ t.pc = 0x0101 ∧ flagBits t 0xD7 0x01) := by decide

/-! ## Rotates, shifts, bits (3.4) -/

/-- R291. -/
theorem test_rlca :
    (after 0x0100 [0x07] [] { zero with main.a := 0x81 } fun t =>
      t.main.a = 0x03 ∧ t.r = 0x01 ∧ t.pc = 0x0101 ∧ flagBits t 0xD7 0x01) := by decide

/-- R292. -/
theorem test_rrca :
    (after 0x0100 [0x0F] [] { zero with main.a := 0x01, main.f := .ofByte 0xC4 } fun t =>
      t.main.a = 0x80 ∧ t.r = 0x01 ∧ t.pc = 0x0101 ∧ flagBits t 0xD7 0xC5) := by decide

/-- R293. -/
theorem test_rla :
    (after 0x0100 [0x17] [] { zero with main.a := 0x80 } fun t =>
      t.main.a = 0x00 ∧ t.r = 0x01 ∧ t.pc = 0x0101 ∧ flagBits t 0xD7 0x01) := by decide

/-- R294. -/
theorem test_rra :
    (after 0x0100 [0x1F] [] { zero with main.a := 0x01, main.f := .ofByte 0x01 } fun t =>
      t.main.a = 0x80 ∧ t.r = 0x01 ∧ t.pc = 0x0101 ∧ flagBits t 0xD7 0x01) := by decide

/-- R295. -/
theorem test_rlc :
    (after 0x0100 [0xCB, 0x00] [] { zero with main.b := 0x80 } fun t =>
      t.pair .bc = 0x0100 ∧ t.r = 0x02 ∧ t.pc = 0x0102 ∧ flagBits t 0xD7 0x01) ∧
    (after 0x0100 [0xCB, 0x06] [(0x8000, 0x01)] { zero with main.h := 0x80, main.l := 0x00 } fun t =>
      t.r = 0x02 ∧ t.pc = 0x0102 ∧ t.peek 0x8000 = 0x02 ∧ flagBits t 0xD7 0x00) := by decide

/-- R296. -/
theorem test_rrc :
    (after 0x0100 [0xCB, 0x09] [] { zero with main.c := 0x01 } fun t =>
      t.pair .bc = 0x0080 ∧ t.r = 0x02 ∧ t.pc = 0x0102 ∧ flagBits t 0xD7 0x81) := by decide

/-- R297. -/
theorem test_rl :
    (after 0x0100 [0xCB, 0x12] [] { zero with main.d := 0x80 } fun t =>
      t.pair .de = 0x0000 ∧ t.r = 0x02 ∧ t.pc = 0x0102 ∧ flagBits t 0xD7 0x45) := by decide

/-- R298. -/
theorem test_rr :
    (after 0x0100 [0xCB, 0x1B] [] { zero with main.e := 0x01, main.f := .ofByte 0x01 } fun t =>
      t.pair .de = 0x0080 ∧ t.r = 0x02 ∧ t.pc = 0x0102 ∧ flagBits t 0xD7 0x81) := by decide

/-- R299. -/
theorem test_sla :
    (after 0x0100 [0xCB, 0x27] [] { zero with main.a := 0x80 } fun t =>
      t.main.a = 0x00 ∧ t.r = 0x02 ∧ t.pc = 0x0102 ∧ flagBits t 0xD7 0x45) := by decide

/-- R300. -/
theorem test_sra :
    (after 0x0100 [0xCB, 0x2F] [] { zero with main.a := 0x81 } fun t =>
      t.main.a = 0xC0 ∧ t.r = 0x02 ∧ t.pc = 0x0102 ∧ flagBits t 0xD7 0x85) := by decide

/-- R301. -/
theorem test_sll :
    (after 0x0100 [0xCB, 0x37] [] { zero with main.a := 0x00 } fun t =>
      t.main.a = 0x01 ∧ t.r = 0x02 ∧ t.pc = 0x0102 ∧ flagBits t 0xD7 0x00) := by decide

/-- R302. -/
theorem test_srl :
    (after 0x0100 [0xCB, 0x3F] [] { zero with main.a := 0x01 } fun t =>
      t.main.a = 0x00 ∧ t.r = 0x02 ∧ t.pc = 0x0102 ∧ flagBits t 0xD7 0x45) := by decide

/-- R303. -/
theorem test_bit :
    (after 0x0100 [0xCB, 0x47] [] { zero with main.a := 0xFE, main.f := .ofByte 0x01 } fun t =>
      t.r = 0x02 ∧ t.pc = 0x0102 ∧ flagBits t 0x53 0x51) ∧
    (after 0x0100 [0xDD, 0xCB, 0x06, 0x41] [(0x8006, 0x00)] { zero with ix := 0x8000 } fun t =>
      t.r = 0x02 ∧ t.pc = 0x0104 ∧ flagBits t 0x53 0x50) := by decide

/-- R304. -/
theorem test_res :
    (after 0x0100 [0xCB, 0x87] [] { zero with main.a := 0xFF } fun t =>
      t.main.a = 0xFE ∧ t.r = 0x02 ∧ t.pc = 0x0102 ∧ flagBits t 0xD7 0x00) := by decide

/-- R305. -/
theorem test_set :
    (after 0x0100 [0xCB, 0xFE] [] { zero with main.h := 0x80, main.l := 0x00 } fun t =>
      t.r = 0x02 ∧ t.pc = 0x0102 ∧ t.peek 0x8000 = 0x80 ∧ flagBits t 0xD7 0x00) := by decide

/-- R306. -/
theorem test_rotate_and_set_indexed :
    (after 0x0100 [0xFD, 0xCB, 0x01, 0xC6] [] { zero with iy := 0x8000 } fun t =>
      t.r = 0x02 ∧ t.pc = 0x0104 ∧ t.peek 0x8001 = 0x01 ∧ flagBits t 0xD7 0x00) ∧
    (after 0x0100 [0xDD, 0xCB, 0x00, 0x06] [(0x9000, 0x80)] { zero with ix := 0x9000 } fun t =>
      t.r = 0x02 ∧ t.pc = 0x0104 ∧ t.peek 0x9000 = 0x01 ∧ flagBits t 0xD7 0x01) := by decide

/-- R308. -/
theorem test_rlc_alt :
    (after 0x0100 [0xDD, 0xCB, 0x00, 0x00] [(0x9000, 0x80)] { zero with ix := 0x9000 } fun t =>
      t.pair .bc = 0x0100 ∧ t.r = 0x02 ∧ t.pc = 0x0104 ∧ t.peek 0x9000 = 0x01 ∧ flagBits t 0xD7 0x01) := by decide

/-- R309. -/
theorem test_rrc_alt :
    (after 0x0100 [0xDD, 0xCB, 0x00, 0x09] [(0x9000, 0x01)] { zero with ix := 0x9000 } fun t =>
      t.pair .bc = 0x0080 ∧ t.r = 0x02 ∧ t.pc = 0x0104 ∧ t.peek 0x9000 = 0x80 ∧ flagBits t 0xD7 0x81) := by decide

/-- R310. -/
theorem test_rl_alt :
    (after 0x0100 [0xDD, 0xCB, 0x00, 0x12] [(0x9000, 0x80)] { zero with ix := 0x9000 } fun t =>
      t.r = 0x02 ∧ t.pc = 0x0104 ∧ t.peek 0x9000 = 0x00 ∧ flagBits t 0xD7 0x45) := by decide

/-- R311. -/
theorem test_rr_alt :
    (after 0x0100 [0xFD, 0xCB, 0x02, 0x1F] [(0x9002, 0x01)] { zero with iy := 0x9000 } fun t =>
      t.r = 0x02 ∧ t.pc = 0x0104 ∧ t.peek 0x9002 = 0x00 ∧ flagBits t 0xD7 0x45) := by decide

/-- R312. -/
theorem test_sla_alt :
    (after 0x0100 [0xDD, 0xCB, 0x00, 0x24] [(0x9000, 0xC0)] { zero with ix := 0x9000 } fun t =>
      t.pair .hl = 0x8000 ∧ t.r = 0x02 ∧ t.pc = 0x0104 ∧ t.peek 0x9000 = 0x80 ∧ flagBits t 0xD7 0x81) := by decide

/-- R313. -/
theorem test_sra_alt :
    (after 0x0100 [0xDD, 0xCB, 0xFF, 0x28] [(0x8FFF, 0x81)] { zero with ix := 0x9000 } fun t =>
      t.pair .bc = 0xC000 ∧ t.r = 0x02 ∧ t.pc = 0x0104 ∧ t.peek 0x8FFF = 0xC0 ∧ flagBits t 0xD7 0x85) := by decide

/-- R314. -/
theorem test_sll_alt_writes_l :
    (after 0x0100 [0xDD, 0xCB, 0x00, 0x35] [(0x9000, 0x00)] { zero with ix := 0x9000 } fun t =>
      t.pair .hl = 0x0001 ∧ t.r = 0x02 ∧ t.pc = 0x0104 ∧ t.peek 0x9000 = 0x01 ∧ flagBits t 0xD7 0x00) := by decide

/-- R315. -/
theorem test_srl_alt :
    (after 0x0100 [0xDD, 0xCB, 0x00, 0x3B] [(0x9000, 0x03)] { zero with ix := 0x9000 } fun t =>
      t.pair .de = 0x0001 ∧ t.r = 0x02 ∧ t.pc = 0x0104 ∧ t.peek 0x9000 = 0x01 ∧ flagBits t 0xD7 0x01) := by decide

/-- R316. -/
theorem test_res_alt :
    (after 0x0100 [0xFD, 0xCB, 0x01, 0x87] [(0x9001, 0xFF)] { zero with iy := 0x9000 } fun t =>
      t.main.a = 0xFE ∧ t.r = 0x02 ∧ t.pc = 0x0104 ∧ t.peek 0x9001 = 0xFE ∧ flagBits t 0xD7 0x00) := by decide

/-- R317. -/
theorem test_set_alt :
    (after 0x0100 [0xDD, 0xCB, 0x01, 0xF8] [(0x9001, 0x00)] { zero with ix := 0x9000 } fun t =>
      t.pair .bc = 0x8000 ∧ t.r = 0x02 ∧ t.pc = 0x0104 ∧ t.peek 0x9001 = 0x80 ∧ flagBits t 0xD7 0x00) := by decide

/-- R318. -/
theorem test_rld :
    (after 0x0100 [0xED, 0x6F] [(0x8000, 0x34)] { zero with main.a := 0x12, main.h := 0x80, main.l := 0x00 } fun t =>
      t.main.a = 0x13 ∧ t.r = 0x02 ∧ t.pc = 0x0102 ∧ t.peek 0x8000 = 0x42 ∧ flagBits t 0xD7 0x00) := by decide

/-- R319. -/
theorem test_rrd :
    (after 0x0100 [0xED, 0x67] [(0x8000, 0x34)] { zero with main.a := 0x12, main.h := 0x80, main.l := 0x00 } fun t =>
      t.main.a = 0x14 ∧ t.r = 0x02 ∧ t.pc = 0x0102 ∧ t.peek 0x8000 = 0x23 ∧ flagBits t 0xD7 0x04) := by decide

/-! ## Jumps, calls, returns (3.5) -/

/-- R320. -/
theorem test_jp :
    (after 0x0100 [0xC3, 0x00, 0x80] [] zero fun t =>
      t.r = 0x01 ∧ t.pc = 0x8000 ∧ flagBits t 0xD7 0x00) := by decide

/-- R321. -/
theorem test_jp_cc :
    (after 0x0100 [0xCA, 0x00, 0x80] [] zero fun t =>
      t.r = 0x01 ∧ t.pc = 0x0103 ∧ flagBits t 0xD7 0x00) ∧
    (after 0x0100 [0xFA, 0x00, 0x80] [] { zero with main.f := .ofByte 0x00 } fun t =>
      t.r = 0x01 ∧ t.pc = 0x0103 ∧ flagBits t 0xD7 0x00) := by decide

/-- R322. -/
theorem test_jp_at :
    (after 0x0100 [0xE9] [] { zero with main.h := 0x12, main.l := 0x34 } fun t =>
      t.r = 0x01 ∧ t.pc = 0x1234 ∧ flagBits t 0xD7 0x00) ∧
    (after 0x0100 [0xDD, 0xE9] [] { zero with ix := 0x4321 } fun t =>
      t.r = 0x02 ∧ t.pc = 0x4321 ∧ flagBits t 0xD7 0x00) := by decide

/-- R323. -/
theorem test_jr :
    (after 0x0100 [0x18, 0xFE] [] zero fun t =>
      t.r = 0x01 ∧ t.pc = 0x0100 ∧ flagBits t 0xD7 0x00) ∧
    (after 0x0100 [0x18, 0x7F] [] zero fun t =>
      t.r = 0x01 ∧ t.pc = 0x0181 ∧ flagBits t 0xD7 0x00) := by decide

/-- R324. -/
theorem test_jr_cc :
    (after 0x1000 [0x38, 0x80] [] { zero with main.f := .ofByte 0x01 } fun t =>
      t.r = 0x01 ∧ t.pc = 0x0F82 ∧ flagBits t 0xD7 0x01) ∧
    (after 0x0100 [0x20, 0x10] [] { zero with main.f := .ofByte 0x40 } fun t =>
      t.r = 0x01 ∧ t.pc = 0x0102 ∧ flagBits t 0xD7 0x40) := by decide

/-- R325. -/
theorem test_djnz :
    (after 0x0100 [0x10, 0xFE] [] { zero with main.b := 0x01 } fun t =>
      t.pair .bc = 0x0000 ∧ t.r = 0x01 ∧ t.pc = 0x0102 ∧ flagBits t 0xD7 0x00) ∧
    (after 0x0100 [0x10, 0xFE] [] { zero with main.b := 0x00 } fun t =>
      t.pair .bc = 0xFF00 ∧ t.r = 0x01 ∧ t.pc = 0x0100 ∧ flagBits t 0xD7 0x00) := by decide

/-- R326. -/
theorem test_call :
    (after 0x0100 [0xCD, 0x00, 0x20] [] { zero with sp := 0x8000 } fun t =>
      t.r = 0x01 ∧ t.sp = 0x7FFE ∧ t.pc = 0x2000 ∧ t.peek 0x7FFE = 0x03 ∧ t.peek 0x7FFF = 0x01 ∧
        flagBits t 0xD7 0x00) := by decide

/-- R327. -/
theorem test_call_cc :
    (after 0x0100 [0xC4, 0x00, 0x20] [] { zero with main.f := .ofByte 0x40, sp := 0x8000 } fun t =>
      t.r = 0x01 ∧ t.pc = 0x0103 ∧ flagBits t 0xD7 0x40) ∧
    (after 0x0100 [0xDC, 0x00, 0x20] [] { zero with main.f := .ofByte 0x01, sp := 0x8000 } fun t =>
      t.r = 0x01 ∧ t.sp = 0x7FFE ∧ t.pc = 0x2000 ∧ t.peek 0x7FFE = 0x03 ∧ t.peek 0x7FFF = 0x01 ∧
        flagBits t 0xD7 0x01) := by decide

/-- R328. -/
theorem test_ret :
    (after 0x0100 [0xC9] [(0x7FFE, 0x03), (0x7FFF, 0x01)] { zero with sp := 0x7FFE } fun t =>
      t.r = 0x01 ∧ t.sp = 0x8000 ∧ t.pc = 0x0103 ∧ flagBits t 0xD7 0x00) := by decide

/-- R329. -/
theorem test_ret_cc :
    (after 0x0100 [0xC8] [(0x7FFE, 0x03), (0x7FFF, 0x01)] { zero with sp := 0x7FFE } fun t =>
      t.r = 0x01 ∧ t.pc = 0x0101 ∧ flagBits t 0xD7 0x00) ∧
    (after 0x0100 [0xF0] [(0x7FFE, 0x03), (0x7FFF, 0x01)] { zero with sp := 0x7FFE } fun t =>
      t.r = 0x01 ∧ t.sp = 0x8000 ∧ t.pc = 0x0103 ∧ flagBits t 0xD7 0x00) := by decide

/-- R331. -/
theorem test_retn :
    (after 0x0100 [0xED, 0x45] [(0x7FFE, 0x00), (0x7FFF, 0x10)] { zero with sp := 0x7FFE, iff2 := true } fun t =>
      t.r = 0x02 ∧ t.sp = 0x8000 ∧ t.pc = 0x1000 ∧ t.iff1 = true ∧ flagBits t 0xD7 0x00) := by decide

/-- R332. -/
theorem test_reti :
    (after 0x0100 [0xED, 0x4D] [(0x7FFE, 0x00), (0x7FFF, 0x10)] { zero with sp := 0x7FFE, iff1 := true } fun t =>
      t.r = 0x02 ∧ t.sp = 0x8000 ∧ t.pc = 0x1000 ∧ t.iff1 = false ∧ flagBits t 0xD7 0x00) := by decide

/-- R333. -/
theorem test_rst :
    (after 0x0200 [0xFF] [] { zero with sp := 0x8000 } fun t =>
      t.r = 0x01 ∧ t.sp = 0x7FFE ∧ t.pc = 0x0038 ∧ t.peek 0x7FFE = 0x01 ∧ t.peek 0x7FFF = 0x02 ∧
        flagBits t 0xD7 0x00) ∧
    (after 0x0100 [0xD7] [] { zero with sp := 0x8000 } fun t =>
      t.r = 0x01 ∧ t.sp = 0x7FFE ∧ t.pc = 0x0010 ∧ t.peek 0x7FFE = 0x01 ∧ t.peek 0x7FFF = 0x01 ∧
        flagBits t 0xD7 0x00) := by decide

/-! ## I/O and CPU control (3.6) -/

/-- R340. -/
theorem test_in_a_n :
    (after 0x0100 [0xDB, 0x34] [] { zero with main.a := 0x12, portAnswers := [0x99] } fun t =>
      t.main.a = 0x99 ∧ t.r = 0x01 ∧ t.pc = 0x0102 ∧ t.trace.events = [.read 0x1234 0x99] ∧
        flagBits t 0xD7 0x00) := by decide

/-- R341. -/
theorem test_in_r_c :
    (after 0x0100 [0xED, 0x50] [] { zero with main.b := 0x00, main.c := 0x10, main.f := .ofByte 0x01, portAnswers := [0x81] } fun t =>
      t.pair .de = 0x8100 ∧ t.r = 0x02 ∧ t.pc = 0x0102 ∧ t.trace.events = [.read 0x0010 0x81] ∧
        flagBits t 0xD7 0x85) ∧
    (after 0x0100 [0xED, 0x70] [] { zero with main.b := 0x00, main.c := 0x10, portAnswers := [0x80] } fun t =>
      t.r = 0x02 ∧ t.pc = 0x0102 ∧ t.trace.events = [.read 0x0010 0x80] ∧ flagBits t 0xD7 0x80) := by decide

/-- R342. -/
theorem test_out_n_a :
    (after 0x0100 [0xD3, 0x01] [] { zero with main.a := 0x41 } fun t =>
      t.r = 0x01 ∧ t.pc = 0x0102 ∧ t.trace.events = [.write 0x4101 0x41] ∧ flagBits t 0xD7 0x00) := by decide

/-- R343. -/
theorem test_out_c_r :
    (after 0x0100 [0xED, 0x59] [] { zero with main.b := 0x02, main.c := 0x03, main.e := 0x55 } fun t =>
      t.r = 0x02 ∧ t.pc = 0x0102 ∧ t.trace.events = [.write 0x0203 0x55] ∧ flagBits t 0xD7 0x00) ∧
    (after 0x0100 [0xED, 0x71] [] { zero with main.b := 0x02, main.c := 0x03 } fun t =>
      t.r = 0x02 ∧ t.pc = 0x0102 ∧ t.trace.events = [.write 0x0203 0x00] ∧ flagBits t 0xD7 0x00) := by decide

/-- R344. -/
theorem test_nop :
    (after 0x0100 [0x00] [] zero fun t =>
      t.r = 0x01 ∧ t.pc = 0x0101 ∧ flagBits t 0xD7 0x00) ∧
    (after 0x0100 [0xED, 0x77] [] zero fun t =>
      t.r = 0x02 ∧ t.pc = 0x0102 ∧ flagBits t 0xD7 0x00) := by decide

/-- R345. -/
theorem test_noni :
    (after 0x0000 [0xED, 0x00] [] zero fun t =>
      t.r = 0x02 ∧ t.pc = 0x0002 ∧ flagBits t 0xD7 0x00) ∧
    (after 0x0100 [0xDD, 0xFD] [] zero fun t =>
      t.r = 0x02 ∧ t.pc = 0x0102 ∧ flagBits t 0xD7 0x00) := by decide

/-- R346. -/
theorem test_empty_entry :
    (after 0x0100 [0x46] [(0x8000, 0x42)] { zero with main.h := 0x80, main.l := 0x00 } fun t =>
      t.r = 0x01 ∧ t.pc = 0x0101 ∧ flagBits t 0xD7 0x00) := by decide

/-- R347. -/
theorem test_halt :
    (after 0x0100 [0x76] [] zero fun t =>
      t.r = 0x01 ∧ t.pc = 0x0101 ∧ t.halted = true ∧ flagBits t 0xD7 0x00) := by decide

/-- R348. -/
theorem test_di :
    (after 0x0100 [0xF3] [] { zero with iff1 := true, iff2 := true } fun t =>
      t.r = 0x01 ∧ t.pc = 0x0101 ∧ t.iff1 = false ∧ t.iff2 = false ∧ flagBits t 0xD7 0x00) := by decide

/-- R349. -/
theorem test_ei :
    (after 0x0100 [0xFB] [] zero fun t =>
      t.r = 0x01 ∧ t.pc = 0x0101 ∧ t.iff1 = true ∧ t.iff2 = true ∧ flagBits t 0xD7 0x00) := by decide

/-- R350. -/
theorem test_im :
    (after 0x0100 [0xED, 0x5E] [] zero fun t =>
      t.r = 0x02 ∧ t.pc = 0x0102 ∧ t.im = .mode2 ∧ flagBits t 0xD7 0x00) ∧
    (after 0x0100 [0xED, 0x4E] [] { zero with im := .mode2 } fun t =>
      t.r = 0x02 ∧ t.pc = 0x0102 ∧ t.im = .mode0 ∧ flagBits t 0xD7 0x00) := by decide

/-- R351. -/
theorem test_ld_i_a :
    (after 0x0100 [0xED, 0x47] [] { zero with main.a := 0x20 } fun t =>
      t.i = 0x20 ∧ t.r = 0x02 ∧ t.pc = 0x0102 ∧ flagBits t 0xD7 0x00) := by decide

/-- R352. -/
theorem test_ld_r_a :
    (after 0x0100 [0xED, 0x4F] [] { zero with main.a := 0x85 } fun t =>
      t.r = 0x85 ∧ t.pc = 0x0102 ∧ flagBits t 0xD7 0x00) := by decide

/-- R353. -/
theorem test_ld_a_i :
    (after 0x0100 [0xED, 0x57] [] { zero with i := 0x80, iff2 := true } fun t =>
      t.main.a = 0x80 ∧ t.r = 0x02 ∧ t.pc = 0x0102 ∧ flagBits t 0xD7 0x84) ∧
    (after 0x0100 [0xED, 0x57] [] { zero with main.f := .ofByte 0x01, i := 0x00 } fun t =>
      t.r = 0x02 ∧ t.pc = 0x0102 ∧ flagBits t 0xD7 0x41) := by decide

/-- R354. -/
theorem test_ld_a_r :
    (after 0x0100 [0xED, 0x5F] [] { zero with r := 0x05 } fun t =>
      t.main.a = 0x07 ∧ t.r = 0x07 ∧ t.pc = 0x0102 ∧ flagBits t 0xD7 0x00) ∧
    (after 0x0100 [0xED, 0x5F] [] { zero with r := 0xFF } fun t =>
      t.main.a = 0x81 ∧ t.r = 0x81 ∧ t.pc = 0x0102 ∧ flagBits t 0xD7 0x80) := by decide

/-! ## Interrupts (3.7) -/

/-- R403. -/
theorem test_int_masked :
    (after 0x0100 [0x00] [] { zero with sp := 0x8000, intLatch := true, iff1 := false, im := .mode1 } fun t =>
      t.r = 0x01 ∧ t.pc = 0x0101 ∧ flagBits t 0xD7 0x00) := by decide

/-- R405. -/
theorem test_nmi :
    (after 0x0100 [0x00] [] { zero with sp := 0x8000, nmiLatch := true, iff1 := true } fun t =>
      t.r = 0x02 ∧ t.sp = 0x7FFE ∧ t.pc = 0x0066 ∧ t.iff1 = false ∧ t.iff2 = true ∧ t.nmiLatch = false ∧
        t.peek 0x7FFE = 0x01 ∧ t.peek 0x7FFF = 0x01 ∧ flagBits t 0xD7 0x00) := by decide

/-- R409. -/
theorem test_int_mode1 :
    (after 0x0100 [0x00] [] { zero with sp := 0x8000, intLatch := true, iff1 := true, iff2 := true, im := .mode1 } fun t =>
      t.r = 0x02 ∧ t.sp = 0x7FFE ∧ t.pc = 0x0038 ∧ t.iff1 = false ∧ t.iff2 = false ∧ t.intLatch = false ∧
        t.peek 0x7FFE = 0x01 ∧ t.peek 0x7FFF = 0x01 ∧ flagBits t 0xD7 0x00) := by decide

/-- R410. -/
theorem test_int_no_vector :
    (after 0x0100 [0x00] [(0x20FF, 0x34), (0x2100, 0x12)] { zero with sp := 0x8000, intLatch := true, iff1 := true, iff2 := true, im := .mode2, i := 0x20 } fun t =>
      t.r = 0x02 ∧ t.sp = 0x7FFE ∧ t.pc = 0x1234 ∧ t.iff1 = false ∧ t.iff2 = false ∧ t.intLatch = false ∧
        t.peek 0x7FFE = 0x01 ∧ t.peek 0x7FFF = 0x01 ∧ flagBits t 0xD7 0x00) := by decide

/-- R411. -/
theorem test_int_mode2 :
    (after 0x0100 [0x00] [(0x2004, 0x00), (0x2005, 0x30)] { zero with sp := 0x8000, intLatch := true, iff1 := true, iff2 := true, im := .mode2, i := 0x20, intVector := some 0x04 } fun t =>
      t.r = 0x02 ∧ t.sp = 0x7FFE ∧ t.pc = 0x3000 ∧ t.iff1 = false ∧ t.iff2 = false ∧ t.intLatch = false ∧
        t.peek 0x7FFE = 0x01 ∧ t.peek 0x7FFF = 0x01 ∧ flagBits t 0xD7 0x00) := by decide

/-- R413. -/
theorem test_nmi_first :
    (after 0x0100 [0x00] [] { zero with sp := 0x8000, nmiLatch := true, intLatch := true, iff1 := true, im := .mode1 } fun t =>
      t.r = 0x02 ∧ t.sp = 0x7FFE ∧ t.pc = 0x0066 ∧ t.iff1 = false ∧ t.iff2 = true ∧ t.nmiLatch = false ∧
        t.peek 0x7FFE = 0x01 ∧ t.peek 0x7FFF = 0x01 ∧ flagBits t 0xD7 0x00) := by decide

/-- R416. -/
theorem test_halt_then_nmi :
    (after 0x0100 [0x76] [] { zero with sp := 0x8000, nmiLatch := true, iff1 := true } fun t =>
      t.r = 0x02 ∧ t.sp = 0x7FFE ∧ t.pc = 0x0066 ∧ t.iff1 = false ∧ t.iff2 = true ∧ t.nmiLatch = false ∧
        t.peek 0x7FFE = 0x01 ∧ t.peek 0x7FFF = 0x01 ∧ flagBits t 0xD7 0x00) := by decide

/-! ## Bus operations, reset, halt, faults (spec 95 sections 4 and 5) -/

/-- LD (IX+5),77h: the prefix and the opcode are opcode fetches, the operand pre-read is discarded. -/
theorem test_bus_ld_at_xd_n :
    (after 0x0100 [0xDD, 0x36, 0x05, 0x77] [] { zero with ix := 0x9000 } fun t =>
      t.trace.bus = [.fetchOpcode 0x0100 0xDD, .fetchOpcode 0x0101 0x36, .readMemory 0x0102 0x05,
        .readMemory 0x0103 0x77, .readMemory 0x9005 0x00, .writeMemory 0x9005 0x77]) := by decide

/-- CALL 2000h: 4 + 3 + 3 + 3 + 3 phases by R71 (log entry 23). -/
theorem test_bus_call :
    (after 0x0100 [0xCD, 0x00, 0x20] [] { zero with sp := 0x8000 } fun t =>
      t.trace.bus = [.fetchOpcode 0x0100 0xCD, .readMemory 0x0101 0x00, .readMemory 0x0102 0x20,
        .writeMemory 0x7FFF 0x01, .writeMemory 0x7FFE 0x03] ∧
      (t.wave.take 4).map Tick.lines = (BusOp.fetchOpcode 0 0).phases) := by decide

/-- Mode 0 with D7: the acknowledge caches the byte, the next step runs RST 10h and fetches nothing (R408, R412). -/
theorem test_mode0_caches :
    (after 0x0100 [0x00] [] { zero with sp := 0x8000, intLatch := true, iff1 := true, iff2 := true, intVector := some 0xD7 }
      fun t => t.r = 0x02 ∧ t.pc = 0x0101 ∧ t.iff1 = false ∧ t.intLatch = false ∧ t.mode0Byte = some 0xD7) := by decide

theorem test_mode0_runs :
    (after 0x0101 [] [] { zero with sp := 0x8000, r := 0x02, mode0Byte := some 0xD7 } fun t =>
      t.r = 0x02 ∧ t.pc = 0x0010 ∧ t.sp = 0x7FFE ∧ t.peek 0x7FFE = 0x01 ∧ t.peek 0x7FFF = 0x01 ∧ t.mode0Byte = none ∧
        t.trace.bus = [.writeMemory 0x7FFF 0x01, .writeMemory 0x7FFE 0x01]) := by decide

/-- RESET at a step start. -/
theorem test_reset_sequence :
    (after 0x1234 [] [] { zero with
        i := 0x55, r := 0x7F, im := .mode2, iff1 := true, iff2 := true, main.a := 0x99, sp := 0x8000, halted := true,
        nmiLatch := true, pins.resetSources := [1] } fun t =>
      t.pc = 0 ∧ t.i = 0 ∧ t.r = 0 ∧ t.im = .mode0 ∧ t.iff1 = false ∧ t.halted = false ∧ t.iff2 = true ∧
        t.main.a = 0x99 ∧ t.sp = 0x8000 ∧ t.nmiLatch = true ∧ t.tTotal = 1) := by decide

theorem test_halted_nmi :
    (after 0x0101 [] [] { zero with sp := 0x8000, halted := true, nmiLatch := true } fun t =>
      t.halted = false ∧ t.pc = 0x0066 ∧ t.peek 0x7FFE = 0x01 ∧ t.peek 0x7FFF = 0x01 ∧ t.r = 0x02) := by decide

/-- The host's placing: the very next step runs the placed word. -/
theorem test_placed_halt : ∃ t, step (State.reset.withFetchWord 8 0x76) = .next t ∧ t.halted = true := ⟨_, rfl, rfl⟩

/-- The stops of the step around an instruction (R458, R460, R79, R80). -/
theorem test_fault_killed : step { zero with kill := true } = .fault .killed := rfl
theorem test_fault_killed_mid_step : step { zero with clock := [[], [.kill]] } = .fault .killedMidStep := by rfl
theorem test_fault_clock_stopped : step { zero with clock := [[], []], clockEnds := true } = .fault .clockStopped := by rfl
theorem test_fault_wait : step { zero with pins.waitSources := [0] } = .fault .waitNeverReleased := by rfl
theorem test_fault_busreq : step { zero with pins.busreqSources := [0] } = .fault .busNeverReturned := by rfl

/-- A WAIT that holds the last phase of the operand read of LD A,(nn) for ever, and one that ends (R79). -/
theorem test_wait_in_operand_access :
    let s : State := { zero with mem := [(0, 0x3A#8)] }
    let edges : List Edge := List.replicate 12 [] ++ [[.wait 0 true]]
    step { s with clock := edges } = .fault .waitNeverReleased ∧
      (∃ t, step { s with clock := edges ++ [[], [.wait 0 false]] } = .next t ∧ t.main.a = 0x3A) := ⟨rfl, _, rfl, rfl⟩

/-! ## Witnesses: states and operands that meet the hypotheses of the obligations -/

/-- `step s` answers a next state. -/
def goesOn (s : State) : Bool :=
  match step s with
  | .next _ => true
  | .fault _ | .refused _ => false

theorem exists_of_goesOn {s : State} (h : goesOn s = true) : ∃ t, step s = .next t := by
  unfold goesOn at h
  split at h <;> first | exact ⟨_, ‹_›⟩ | exact nomatch h

/-- LoadRegistersAndHalves, StoreByteInstructions: registers that the rewrite leaves alone, at both ends of the table. -/
theorem witness_notHL : Reg8.b.notHL = true ∧ Reg8.a.notHL = true := by decide

/-- LoadAccumulatorFromMemory, StoreByteInstructions: both pairs. -/
theorem witness_pairs : (Rp.bc = .bc ∨ Rp.bc = .de) ∧ (Rp.de = .bc ∨ Rp.de = .de) := by decide

/-- RelativeJumps: the first and the last condition of JR. -/
theorem witness_jr_conditions : Cond.nz.isJr = true ∧ Cond.c.isJr = true := by decide

/-- ReturnInstructions: the neighbours of the excluded y. -/
theorem witness_retn_y : (0 : Fin 8) ≠ 1 ∧ (2 : Fin 8) ≠ 1 ∧ (7 : Fin 8) ≠ 1 := by decide

/-- ExchangeInstructions: a register that EXX exchanges. ResetAndSetBits: the ends of the bit range. -/
theorem witness_exx_register : Reg8.b ≠ .a ∧ Reg8.l ≠ .a := by decide
theorem witness_bit_range : (0 : Nat) < 8 ∧ (7 : Nat) < 8 := by decide

/-- PortInput, BlockInputUnit: an unclaimed port, and a claimed one whose high byte is not looked at. -/
theorem witness_ports :
    let s : State := { zero with cfg.ports := [0x10] }
    s.portMapped 0x0011 = false ∧ s.portMapped 0xFF10 = true := by decide

/-- The clauses under `z80` (UndocAre, UndocSPv): the state of the tests. -/
theorem witness_z80 : zero.cfg.undocF53 = .z80 ∧ zero.cfg.undocFlags = .z80 := by decide

/-- DecodeOfEncode: well-formed instructions with and without a check of their own, and one that is no prefix row. -/
theorem witness_wf :
    (Instr.rst 0x38).wf = true ∧ (Instr.setAlt 7 .iy 0xFF .a).wf = true ∧ isPrefixRow (.setAlt 7 .iy 0xFF .a) = false := by
  decide

/-- PrefixesAndUndefinedEncodings: the boundaries of each clause. -/
theorem witness_undefined_ed :
    ((0x00#8).toNat / 64 = 0 ∨ (0x00#8).toNat / 64 = 3) ∧ ((0x3F#8).toNat / 64 = 0 ∨ (0x3F#8).toNat / 64 = 3) ∧
    ((0xC0#8).toNat / 64 = 0 ∨ (0xC0#8).toNat / 64 = 3) ∧ ((0xFF#8).toNat / 64 = 0 ∨ (0xFF#8).toNat / 64 = 3) ∧
    ∀ b ∈ [0x80#8, 0x9B#8, 0xA4#8, 0xBF#8],
      b.toNat / 64 = 2 ∧ ¬ (b.toNat % 8 ≤ 3 ∧ 4 ≤ b.toNat / 8 % 8) := by decide

theorem witness_prefix_without_effect :
    (prefixOf 0x00#8 = none ∧ ∀ o ∈ [Operand.HL, .H, .L], (plainDetails 0x00#8).dest ≠ o ∧ (plainDetails 0x00#8).source ≠ o) ∧
    (prefixOf 0xFF#8 = none ∧ ∀ o ∈ [Operand.HL, .H, .L], (plainDetails 0xFF#8).dest ≠ o ∧ (plainDetails 0xFF#8).source ≠ o) ∧
    prefixOf 0xEB#8 = none := by decide

/-- A state with a program byte, quiet: for the statements about a step in a quiet environment. -/
def ready : State := { zero with mem := [(0, 0x78#8)], sp := 0x8000 }

theorem witness_quiet : Quiet ready := ⟨rfl, rfl, rfl, rfl, rfl, rfl, rfl⟩

/-- StepRunsDecodedInstruction, QuietStepIsFetchExecCheck, QuietMachineNeverStops: LD A,B at PC. -/
theorem witness_step_decodes :
    ready.kill = false ∧ ready.resetLine = false ∧ ready.halted = false ∧ ready.decoder = Decoder.empty ∧
      ∃ left, decode ready.upcoming = .ok (.ldRR .a .b, left) := ⟨rfl, rfl, rfl, rfl, _, rfl⟩

/-- The same with a mode-0 byte waiting. -/
theorem witness_step_decodes_mode0 :
    ∃ left, decode ({ ready with mode0Byte := some 0xD7#8 } : State).upcoming = .ok (.rst 0x10, left) := ⟨_, rfl⟩

/-- StepCycleCount. -/
theorem witness_cycle_count :
    Quiet ready ∧ ready.halted = false ∧ ready.decoder = Decoder.empty ∧
      ∃ i f t, fetchDecode 4 ready.beginStep = some (i, f) ∧ step ready = .next t := by
  obtain ⟨t, h⟩ := exists_of_goesOn (s := ready) (by decide)
  exact ⟨witness_quiet, rfl, rfl, _, _, t, rfl, h⟩

/-- ResetSequenceStep: at a quiet edge, and at one that brings signals. -/
theorem witness_reset_step :
    let s : State := { ready with pins.resetSources := [3] }
    let t : State := { s with clock := [[.int, .wait 1 true, .reset 3 false], []] }
    s.kill = false ∧ s.stuck = none ∧ s.resetLine = true ∧ s.clock = [] ∧ s.clockEnds = false ∧
      t.kill = false ∧ t.stuck = none ∧ t.resetLine = true ∧ t.clock ≠ [] ∧ Signal.kill ∉ t.clock.head?.getD [] := by decide

/-- HaltedStep: with nothing latched, and with an INT that IFF1 masks. -/
theorem witness_halted_step :
    Quiet { ready with halted := true } ∧
      Quiet { ready with halted := true, intLatch := true } ∧ ready.nmiLatch = false ∧ ready.intLatch = false ∧
      ready.iff1 = false := ⟨⟨rfl, rfl, rfl, rfl, rfl, rfl, rfl⟩, ⟨rfl, rfl, rfl, rfl, rfl, rfl, rfl⟩, rfl, rfl, rfl⟩

/-- NmiAcknowledge, RetnUndoesNmiEntry: the two stack bytes can be written. -/
theorem witness_nmi :
    Quiet { ready with nmiLatch := true } ∧ ready.writable (ready.sp - 1) = true ∧ ready.writable (ready.sp - 2) = true :=
  ⟨⟨rfl, rfl, rfl, rfl, rfl, rfl, rfl⟩, by decide, by decide⟩

/-- IntAcknowledge: every mode, and both ways to be masked. -/
theorem witness_int :
    ∀ m ∈ [IntMode.mode0, .mode1, .mode2], Quiet { ready with intLatch := true, iff1 := true, im := m } ∧
      ready.nmiLatch = false ∧ ready.intLatch = false ∧ ready.iff1 = false :=
  fun _ _ => ⟨⟨rfl, rfl, rfl, rfl, rfl, rfl, rfl⟩, rfl, rfl, rfl⟩

/-- SignalSurface: a pending kill, a phase that never ended, latches that are set, and an edge that brings a kill. -/
theorem witness_kill :
    ({ ready with stuck := some .waitNeverReleased } : State).stuck = some .waitNeverReleased ∧
    ({ ready with kill := true } : State).kill = true ∧
      ({ ready with intLatch := true, nmiLatch := true } : State).intLatch = true ∧
      ({ ready with intLatch := true, nmiLatch := true } : State).nmiLatch = true ∧ Signal.kill ∈ [Signal.int, .kill] := by decide

/-- SignalSurface: the other source stays one when source 1 asserts and deasserts the line, and it holds the line (R36). -/
theorem witness_sources :
    let s : State := { ready with pins.waitSources := [2] }
    2 ∈ (s.signal (.wait 1 true)).pins.waitSources ∧ 1 ∈ (s.signal (.wait 1 true)).pins.waitSources ∧
      ((s.signal (.wait 1 true)).signal (.wait 1 false)).pins.waitSources = [2] ∧
      (s.signal (.wait 1 false)).wait = true ∧ (s.signal (.wait 2 false)).wait = false := by decide

/-- WaitStretchesPhase with no held edge and with three; BusRequestHandOff. -/
theorem witness_wait :
    ready.kill = false ∧ ready.pins.waitSources = [] ∧
      ({ ready with clock := [[.wait 5 true], [.wait 5 false]] } : State).clock =
        [.wait 5 true] :: (List.replicate 0 [] ++ [.wait 5 false] :: []) ∧
      ({ ready with clock := [[.wait 5 true], [], [], [], [.wait 5 false], []] } : State).clock =
        [.wait 5 true] :: (List.replicate 3 [] ++ [.wait 5 false] :: [[]]) := by decide

theorem witness_busreq :
    let s : State := { ready with pins.busreqSources := [2], clock := [[], [.busreq 2 false]] }
    s.kill = false ∧ s.stuck = none ∧ s.pins.waitSources = [] ∧ s.pins.busreqSources = [2] ∧
      s.clock = List.replicate 1 [] ++ [[.busreq 2 false]] ∧ s.clockEnds = false := by decide

/-- MapsAndRegistration: a map with two regions that takes a third. -/
theorem witness_maps :
    let m : MemMap := [⟨0x0000, 0x0FFF, true⟩, ⟨0x2000, 0xFFFF, false⟩]
    m.wf ∧ (MemMap.register m ⟨0x1000, 0x1FFF, false⟩).isSome ∧ m.resolve 0x2000 = some ⟨0x2000, 0xFFFF, false⟩ ∧
      m.resolve 0x1FFF = none ∧ m.resolve 0x0FFF = some ⟨0x0000, 0x0FFF, true⟩ ∧ (PortMap.register [0x10] 0x11).isSome := by
  decide

/-- StepKeepsBoundary, StepKeepsMapAndReadOnlyBytes: a boundary state that steps, with a read-only and an unmapped byte. -/
theorem witness_boundary_step :
    let s : State := { ready with cfg.memMap := [⟨0x0000, 0x0FFF, true⟩, ⟨0x8000, 0xFFFF, false⟩] }
    Boundary s ∧ (∃ t, step s = .next t) ∧ s.writable 0x0FFF = false ∧ s.writable 0x1000 = false ∧
      s.writable 0x8000 = true :=
  ⟨⟨by decide, rfl, rfl, rfl, rfl⟩, exists_of_goesOn (by decide), by decide, by decide, by decide⟩

/-- OnlyNamedInstructionsWrite: an instruction of each clause changes its part. -/
theorem witness_named_writers :
    let s : State := { ready with main.a := 1, alt.b := 1 }
    (∃ t, exec .ldIA s = .next t ∧ t.i ≠ s.i) ∧ (∃ t, exec .ldRA s = .next t ∧ t.r ≠ s.r) ∧
    (∃ t, exec (.im 2) s = .next t ∧ t.im ≠ s.im) ∧ (∃ t, exec .halt s = .next t ∧ t.halted ≠ s.halted) ∧
    (∃ t, exec .ei s = .next t ∧ t.iff2 ≠ s.iff2 ∧ t.iff1 ≠ s.iff1) ∧ (∃ t, exec .exx s = .next t ∧ t.alt ≠ s.alt) ∧
    (∃ t, exec .scf s = .next t ∧ t.main.f ≠ s.main.f) ∧
    (∃ t, exec .outC0 s = .next t ∧ t.trace.events ≠ s.trace.events) ∧
    ∃ t, exec .prefixED s = .next t ∧ t.decoder ≠ s.decoder :=
  ⟨⟨_, rfl, by decide⟩, ⟨_, rfl, by decide⟩, ⟨_, rfl, by decide⟩, ⟨_, rfl, by decide⟩, ⟨_, rfl, by decide, by decide⟩,
    ⟨_, rfl, by decide⟩, ⟨_, rfl, by decide⟩, ⟨_, rfl, by decide⟩, ⟨_, rfl, by decide⟩⟩

/-- RequestsDuringAStep: requests to come, running and halted, with an NMI latched, and with an INT in each mode. -/
theorem witness_requests :
    ∀ m ∈ [IntMode.mode0, .mode1, .mode2],
      let s : State := { ready with clock := [[], [.vector 0x04#8, .int], [.nmi]], im := m }
      RequestsOnly s ∧ s.halted = false ∧ s.decoder = Decoder.empty ∧
        (∃ left, decode s.upcoming = .ok (.ldRR .a .b, left)) ∧
        RequestsOnly { s with halted := true } ∧ RequestsOnly { s with nmiLatch := true } ∧
        RequestsOnly { s with intLatch := true, iff1 := true } ∧ s.nmiLatch = false := by
  have h : ∀ e ∈ [[], [Signal.vector 0x04#8, .int], [.nmi]], ∀ x ∈ e, x = .int ∨ x = .nmi ∨ ∃ v, x = .vector v := by
    simp
  have d : ∃ left, decode ready.upcoming = .ok (.ldRR .a .b, left) := ⟨_, rfl⟩
  exact fun _ _ => ⟨⟨h, rfl, rfl, rfl, rfl, rfl, rfl⟩, rfl, rfl, d, ⟨h, rfl, rfl, rfl, rfl, rfl, rfl⟩,
    ⟨h, rfl, rfl, rfl, rfl, rfl, rfl⟩, ⟨h, rfl, rfl, rfl, rfl, rfl, rfl⟩, rfl⟩

/-- A byte placed in int_vector by the end of T2 of the acknowledge is the one it answers (R77, R81, R410): mode 2 at I = 20. -/
theorem test_vector_arrives_late :
    (after 0x0100 [0x00] [(0x2004, 0x00), (0x2005, 0x30)] { zero with
        sp := 0x8000, halted := true, intLatch := true, iff1 := true, im := .mode2, i := 0x20,
        clock := [[], [], [], [], [], [.vector 0x04]] } fun t =>
      t.pc = 0x3000 ∧ t.intVector = none) := by decide

end Sys2Proof.Tests
end

section
/-! PROOFS. Bus operations one after the other, and what they can never do to the signal surface. -/

namespace Sys2Proof.Machine

theorem Bus.trans {s u f : State} {xs ys : List BusOp} (h1 : Bus s u xs) (h2 : Bus u f ys) : Bus s f (xs ++ ys) := by
  obtain ⟨ho1, hs1⟩ := h1
  obtain ⟨ho2, hs2⟩ := h2
  refine ⟨?_, ?_⟩
  · simp only [Ops] at ho1 ho2 ⊢
    rw [ho2, ho1, List.append_assoc]
  · rw [hs2, hs1, Surface.operations_append]

@[simp] theorem Surface.operations_halted (c : Surface) (ops : List BusOp) : (c.operations ops).halted = c.halted := by
  induction ops generalizing c with
  | nil => rfl
  | cons op ops ih => simp [ih]

theorem Bus.halted {s t : State} {ops : List BusOp} (h : Bus s t ops) : t.halted = s.halted := by
  obtain ⟨-, hs⟩ := h
  rw [hs, Surface.operations_halted]

end Sys2Proof.Machine
end

section
/-! PROOFS. In a quiet environment clock edges change the timing of the signal surface and nothing else. -/

namespace Sys2Proof.Machine

/-- `t` with the timing of `s`: what `Part.restore` puts back for `.timing`, on the surface alone. -/
def Surface.restoreTiming (s t : Surface) : Surface :=
  { t with
    pins := { t.pins with lines := s.pins.lines, mcycle := s.pins.mcycle }
    tTotal := s.tTotal, tInstr := s.tInstr, wave := s.wave }

/-- `Quiet` reads the surface alone. -/
def Surface.IsQuiet (s : Surface) : Prop :=
  s.clock = [] ∧ s.clockEnds = false ∧ s.pins.busreqSources = [] ∧ s.pins.resetSources = [] ∧
    s.pins.waitSources = [] ∧ s.kill = false ∧ s.stuck = none

theorem quiet_iff_surface (s : State) : Quiet s ↔ s.toSurface.IsQuiet := Iff.rfl

theorem restore_timing (s t : State) :
    Part.restore s t .timing = { t with toSurface := s.toSurface.restoreTiming t.toSurface } := rfl

@[simp] theorem Surface.restoreTiming_self (s : Surface) : s.restoreTiming s = s := rfl

theorem Surface.restoreTiming_restoreTiming (s t u : Surface) :
    s.restoreTiming (t.restoreTiming u) = s.restoreTiming u := rfl

@[simp] theorem Surface.restoreTiming_publish (s t : Surface) (l : Lines) :
    s.restoreTiming (t.publish l) = s.restoreTiming t := rfl

@[simp] theorem Surface.restoreTiming_setKind (s t : Surface) (k : MCycle) :
    s.restoreTiming (t.setKind k) = s.restoreTiming t := rfl

@[simp] theorem Surface.restoreTiming_retire (s t : Surface) (n : Nat) :
    s.restoreTiming (t.retire n) = s.restoreTiming t := rfl

@[simp] theorem Surface.restoreTiming_release (s t : Surface) : s.restoreTiming t.release = s.restoreTiming t := rfl

theorem Surface.IsQuiet.of_restoreTiming {s t : Surface} (q : s.IsQuiet) (h : s.restoreTiming t = s) : t.IsQuiet := by
  have ht : (s.restoreTiming t).IsQuiet := by rw [h]; exact q
  exact ht

/-- Phases that are one edge each change the timing only. -/
@[simp] theorem Surface.restoreTiming_phases (s t : Surface) (ls : List Lines) :
    s.restoreTiming (ls.foldl (fun u l => (u.publish l).retire 1) t) = s.restoreTiming t := by
  induction ls generalizing t with
  | nil => rfl
  | cons l ls ih => exact ih ((t.publish l).retire 1)

theorem Surface.IsQuiet.cycle {s : Surface} (q : s.IsQuiet) (k : BusCycle) : s.restoreTiming (s.cycle k) = s := by
  obtain ⟨hclock, hends, hbusreq, -, hwait, -, hstuck⟩ := q
  simp [Surface.cycle_quiet hclock hends hbusreq hwait hstuck]

/-- Bus operations in a quiet environment change the timing only. -/
theorem Surface.IsQuiet.operations {s : Surface} (q : s.IsQuiet) (ops : List BusOp) :
    s.restoreTiming (s.operations ops) = s := by
  induction ops generalizing s with
  | nil => rfl
  | cons op ops ih =>
    have hop : s.restoreTiming (s.cycle op.cycle).release = s := by simp [q.cycle]
    have hops := ih (q.of_restoreTiming hop)
    rw [Surface.operations_cons, ← Surface.restoreTiming_restoreTiming s (s.cycle op.cycle).release, hops, hop]

/-- Internal cycles in a quiet environment change the timing only. -/
theorem Surface.IsQuiet.internal {s : Surface} (q : s.IsQuiet) (n : Nat) : s.restoreTiming (s.internal n) = s := by
  obtain ⟨hclock, hends, -, -, hwait, -, hstuck⟩ := q
  rw [Surface.internal, Surface.runInternal_quiet hclock hends hwait, Surface.after_ok _ hstuck]
  rfl

theorem Quiet.internal_sameBut {s : State} (q : Quiet s) (n : Nat) : SameBut [.timing] s (s.internal n) := by
  calc Part.restore s (s.internal n) .timing
      = { s with toSurface := s.toSurface.restoreTiming (s.toSurface.internal n) } := restore_timing s (s.internal n)
    _ = s := by rw [((quiet_iff_surface s).1 q).internal]

theorem Quiet.bus_surface {s t : State} {ops : List BusOp} (q : Quiet s) (h : Bus s t ops) :
    s.toSurface.restoreTiming t.toSurface = s.toSurface := by
  obtain ⟨-, hs⟩ := h
  rw [hs, ((quiet_iff_surface s).1 q).operations]

/-- Bus operations in a quiet environment leave it quiet, and the latches and the vector byte as they are. -/
theorem Quiet.bus {s t : State} {ops : List BusOp} (q : Quiet s) (h : Bus s t ops) :
    Quiet t ∧ t.nmiLatch = s.nmiLatch ∧ t.intLatch = s.intLatch ∧ t.intVector = s.intVector := by
  have hs := q.bus_surface h
  exact ⟨((quiet_iff_surface s).1 q).of_restoreTiming hs, (congrArg Surface.nmiLatch hs :),
    (congrArg Surface.intLatch hs :), (congrArg Surface.intVector hs :)⟩

end Sys2Proof.Machine
end

section
/-! PROOFS. The fetch loop of 70 R453 and the decoder on a list of bytes take the same bytes, and what each of them costs. -/

namespace Sys2Proof

/-! ## Where the decoder stands -/

/-- Inside the operands, or after `DD CB` or `FD CB`: nothing more is fetched as an opcode (30 R121). -/
def Decoder.InOperands (d : Decoder) : Prop := d.inflight ≠ none ∧ d.expectsOpcode = false

/-- Where the decoder can stand before a byte of an instruction (30 R121, R122). -/
inductive Decoder.Stage : Decoder → Prop
  | start : Stage Decoder.empty
  | prefixed (p : Pfx) (hp : p ≠ .none) : Stage { Decoder.empty with pfx := p }
  | operands {d : Decoder} (ho : d.InOperands) : Stage d

/-- How many of the coming bytes, `b` the first, are fetched as opcodes. -/
def Decoder.opcodesLeft (d : Decoder) (b : Byte) : Nat :=
  if d.expectsOpcode then (if d.pfx = .none then (if (prefixOf b).isSome then 2 else 1) else 1) else 0

@[simp] theorem Decoder.opcodesLeft_empty (b : Byte) :
    Decoder.empty.opcodesLeft b = if (prefixOf b).isSome then 2 else 1 := rfl

theorem Decoder.opcodesLeft_prefixed {p : Pfx} (hp : p ≠ .none) (b : Byte) :
    Decoder.opcodesLeft { Decoder.empty with pfx := p } b = 1 := if_neg hp

theorem Decoder.InOperands.opcodesLeft {d : Decoder} (ho : d.InOperands) (b : Byte) : d.opcodesLeft b = 0 := by
  simp [Decoder.opcodesLeft, ho.2]

theorem Decoder.expectsOpcode_eq (d : Decoder) (b : Byte) : d.expectsOpcode = decide (0 < d.opcodesLeft b) := by
  unfold Decoder.opcodesLeft
  cases d.expectsOpcode with
  | false => rfl
  | true =>
    rw [if_pos rfl]
    repeat' split
    all_goals rfl

theorem prefixOf_ne_none {b : Byte} {p : Pfx} (h : prefixOf b = some p) : p ≠ .none := by
  rintro rfl
  unfold prefixOf at h
  repeat' (split at h)
  all_goals simp at h

theorem Decoder.cache_operands {d d' : Decoder} {e : Entry} (h : d.cache e = (d', none)) : d'.InOperands := by
  unfold Decoder.cache at h
  split at h
  · cases h
  · next hne =>
    cases h
    refine ⟨by simp, ?_⟩
    cases hdisp : e.needDisp with
    | true => simp [Decoder.expectsOpcode]
    | false => simp_all [Decoder.expectsOpcode]

theorem Decoder.decodeDDFD_operands {d d' : Decoder} {x : Idx} {b : Byte} (h : d.decodeDDFD x b = (d', none)) :
    d'.InOperands := by
  unfold Decoder.decodeDDFD at h
  split at h
  · cases h
    simp [Decoder.InOperands, Decoder.expectsOpcode]
  · split at h <;> exact Decoder.cache_operands h

theorem Decoder.feed_prefixed {d' : Decoder} {p : Pfx} {b : Byte} (hp : p ≠ .none)
    (h : Decoder.feed { Decoder.empty with pfx := p } b = (d', none)) : d'.InOperands := by
  cases p with
  | none => exact absurd rfl hp
  | DD | FD => exact Decoder.decodeDDFD_operands h
  | CB | ED | DDCB | FDCB => exact Decoder.cache_operands h

theorem Decoder.InOperands.feed {d d' : Decoder} {b : Byte} (ho : d.InOperands) (h : d.feed b = (d', none)) :
    d'.InOperands := by
  obtain ⟨-, he⟩ := ho
  unfold Decoder.feed at h
  split at h
  · cases h
  next halt =>
  split at h
  · dsimp only at h
    split at h
    · cases h
      simp [Decoder.InOperands, Decoder.expectsOpcode]
    split at h
    · cases h
    · next himm =>
      cases h
      simp [Decoder.InOperands, Decoder.expectsOpcode, himm]
  next hdisp =>
  split at h
  · cases h
    simp [Decoder.InOperands, Decoder.expectsOpcode]
  next h2 =>
  split at h
  · cases h
  next h1 =>
  have h0 : d.immRemaining = 0 := by omega
  simp [Decoder.expectsOpcode, halt, hdisp, h0] at he

/-- The decoder fed an opcode from the empty state: a byte of `prefixOf` is noted, any other starts an entry (30 R122). -/
theorem Decoder.feed_empty (b : Byte) :
    Decoder.empty.feed b =
      (prefixOf b).elim (Decoder.empty.cache (plainDetails b)) fun p => ({ Decoder.empty with pfx := p }, none) := by
  show Decoder.empty.feedOpcode b = _
  cases h : prefixOf b <;> simp [Decoder.feedOpcode, Decoder.empty, h]

/-- A byte that completes no instruction takes the decoder to its next stage. -/
theorem Decoder.Stage.feed {d d' : Decoder} {b : Byte} (hd : d.Stage) (h : d.feed b = (d', none)) :
    d'.Stage ∧ ∀ b', d'.opcodesLeft b' = d.opcodesLeft b - 1 := by
  have key (ho : d'.InOperands) (hb : d.opcodesLeft b ≤ 1) : d'.Stage ∧ ∀ b', d'.opcodesLeft b' = d.opcodesLeft b - 1 :=
    ⟨.operands ho, fun b' => by rw [ho.opcodesLeft]; omega⟩
  cases hd with
  | start =>
    rw [Decoder.feed_empty] at h
    cases hp : prefixOf b with
    | none =>
      rw [hp] at h
      exact key (Decoder.cache_operands h) (by simp [hp])
    | some p =>
      rw [hp] at h
      cases h
      have hne := prefixOf_ne_none hp
      exact ⟨.prefixed p hne, fun b' => by simp [Decoder.opcodesLeft_prefixed hne, hp]⟩
  | prefixed p hp => exact key (Decoder.feed_prefixed hp h) (Decoder.opcodesLeft_prefixed hp b).le
  | operands ho => exact key (ho.feed h) (by simp [ho.opcodesLeft])

/-- A byte that completes an instruction is the last that can be an opcode. -/
theorem Decoder.Stage.opcodesLeft_of_answer {d d' : Decoder} {b : Byte} {i : Instr} (hd : d.Stage)
    (h : d.feed b = (d', some i)) : d.opcodesLeft b ≤ 1 := by
  cases hd with
  | start =>
    rw [Decoder.feed_empty] at h
    cases hp : prefixOf b with
    | none => simp [hp]
    | some p => rw [hp] at h; cases h
  | prefixed p hp => exact (Decoder.opcodesLeft_prefixed hp b).le
  | operands ho => simp [ho.opcodesLeft]

/-- Only inside the operands is no opcode left. -/
theorem Decoder.Stage.inOperands {d : Decoder} {b : Byte} (hd : d.Stage) (h : d.opcodesLeft b = 0) : d.InOperands := by
  cases hd with
  | start => rw [Decoder.opcodesLeft_empty] at h; split at h <;> cases h
  | prefixed p hp => rw [Decoder.opcodesLeft_prefixed hp] at h; cases h
  | operands ho => exact ho

theorem Decoder.InOperands.decodeFrom_nil {d : Decoder} (ho : d.InOperands) :
    decodeFrom d [] = .error .needMoreBytes := by
  have hne (p : Pfx) : d ≠ { Decoder.empty with pfx := p } := by
    rintro rfl
    exact ho.1 rfl
  simp [decodeFrom, hne]

theorem decodeFrom_cons_some {d d' : Decoder} {b : Byte} {i : Instr} (h : d.feed b = (d', some i)) (bs : List Byte) :
    decodeFrom d (b :: bs) = .ok (i, bs) := by
  simp [decodeFrom, h]

theorem decodeFrom_cons_none {d d' : Decoder} {b : Byte} (h : d.feed b = (d', none)) (bs : List Byte) :
    decodeFrom d (b :: bs) = decodeFrom d' bs := by
  simp [decodeFrom, h]

end Sys2Proof

namespace Sys2Proof.Machine

/-! ## Bytes brought in -/

/-- The `n` bytes from an address on. -/
def State.ahead (s : State) (a : Word) : Nat → List Byte
  | 0 => []
  | n + 1 => s.peek a :: s.ahead (a + 1) n

/-- The operations that bring in `n` bytes from an address on, the first `m` of them as opcodes (30 R121). -/
def State.fetchOps (s : State) (a : Word) (m n : Nat) : List BusOp :=
  (List.range n).map fun k =>
    if k < m then .fetchOpcode (a + BitVec.ofNat 16 k) (s.peek (a + BitVec.ofNat 16 k))
    else .readMemory (a + BitVec.ofNat 16 k) (s.peek (a + BitVec.ofNat 16 k))

/-- `f` is `s` after `n` bytes at PC were brought in, the first `m` of them as opcodes: `Fetched`, by counts. -/
def Reads (s : State) (m n : Nat) (f : State) : Prop :=
  f.pc = s.pc + BitVec.ofNat 16 n ∧ f.r = bumpR^[m] s.r ∧ f.mode0Byte = none ∧ Bus s f (s.fetchOps s.pc m n)

variable {s u f : State}

theorem State.ahead_congr (hc : u.cfg = s.cfg) (hm : u.mem = s.mem) (a : Word) (n : Nat) :
    u.ahead a n = s.ahead a n := by
  induction n generalizing a with
  | zero => rfl
  | succ n ih => simp only [State.ahead, ih, State.peek_congr s hc hm]

theorem State.ahead_length (s : State) (a : Word) (n : Nat) : (s.ahead a n).length = n := by
  induction n generalizing a with
  | zero => rfl
  | succ n ih => exact congrArg Nat.succ (ih (a + 1))

theorem State.fetchOps_congr (hc : u.cfg = s.cfg) (hm : u.mem = s.mem) (a : Word) (m n : Nat) :
    u.fetchOps a m n = s.fetchOps a m n := by
  simp only [State.fetchOps, State.peek_congr s hc hm]

theorem add_ofNat_succ (a : Word) (n : Nat) : a + BitVec.ofNat 16 (n + 1) = a + 1 + BitVec.ofNat 16 n := by
  rw [BitVec.add_assoc, Nat.add_comm, BitVec.ofNat_add]
  rfl

theorem State.fetchOps_succ (s : State) (a : Word) (m n : Nat) :
    s.fetchOps a m (n + 1) =
      (if 0 < m then .fetchOpcode a (s.peek a) else .readMemory a (s.peek a)) :: s.fetchOps (a + 1) (m - 1) n := by
  rw [State.fetchOps, List.range_succ_eq_map, List.map_cons, List.map_map, State.fetchOps]
  congr 1
  · simp
  · refine List.map_congr_left fun k _ => ?_
    have ha : a + BitVec.ofNat 16 (k + 1) = a + 1 + BitVec.ofNat 16 k := add_ofNat_succ a k
    have hm : k + 1 < m ↔ k < m - 1 := by omega
    simp only [Function.comp_apply, Nat.succ_eq_add_one, ha, hm]

/-- The state after a turn of the loop of 70 R453 that left the decoder at `d`. -/
def State.takeByte (s : State) (d : Decoder) : State := { s.nextByte.2 with decoder := d }

theorem State.takeByte_decoder (s : State) (d : Decoder) : (s.takeByte d).decoder = d := rfl

/-- A byte taken from memory, which is all that `nextByte` does where no mode-0 byte waits. -/
theorem State.nextByte_of_none (h : s.mode0Byte = none) :
    s.nextByte =
      (s.peek s.pc,
        { (if s.decoder.expectsOpcode then s.opcodeFetch s.pc else s.memRead s.pc).2 with pc := s.pc + 1 }) := by
  unfold State.nextByte
  rw [h]
  cases s.decoder.expectsOpcode <;> rfl

theorem State.nextByte_of_some {b : Byte} (h : s.mode0Byte = some b) :
    s.nextByte = (b, { s with mode0Byte := none }) := by
  simp only [State.nextByte, h]

theorem State.nextByte_fst (h : s.mode0Byte = none) : s.nextByte.1 = s.peek s.pc :=
  congrArg Prod.fst (State.nextByte_of_none h)

theorem State.nextByte_keeps (s : State) :
    s.nextByte.2.cfg = s.cfg ∧ s.nextByte.2.mem = s.mem ∧ s.nextByte.2.decoder = s.decoder := by
  unfold State.nextByte
  split
  · exact ⟨rfl, rfl, rfl⟩
  · cases s.decoder.expectsOpcode <;> exact ⟨rfl, rfl, rfl⟩

theorem State.takeByte_ahead (s : State) (d : Decoder) (a : Word) (n : Nat) : (s.takeByte d).ahead a n = s.ahead a n := by
  obtain ⟨hcfg, hmem, -⟩ := s.nextByte_keeps
  exact State.ahead_congr (u := s.takeByte d) hcfg hmem a n

theorem State.takeByte_fetchOps (s : State) (d : Decoder) (a : Word) (m n : Nat) :
    (s.takeByte d).fetchOps a m n = s.fetchOps a m n := by
  obtain ⟨hcfg, hmem, -⟩ := s.nextByte_keeps
  exact State.fetchOps_congr (u := s.takeByte d) hcfg hmem a m n

/-- What a byte of memory costs: PC, R for an opcode, one bus operation. -/
theorem State.takeByte_of_none (h : s.mode0Byte = none) {m : Nat} (hm : s.decoder.expectsOpcode = decide (0 < m))
    (d : Decoder) :
    (s.takeByte d).pc = s.pc + 1 ∧ (s.takeByte d).mode0Byte = none ∧ bumpR^[m - 1] (s.takeByte d).r = bumpR^[m] s.r ∧
      Bus s (s.takeByte d) [if 0 < m then .fetchOpcode s.pc (s.peek s.pc) else .readMemory s.pc (s.peek s.pc)] := by
  rw [State.takeByte, State.nextByte_of_none h, hm]
  cases m with
  | zero => exact ⟨rfl, h, rfl, rfl, rfl⟩
  | succ m => exact ⟨rfl, h, rfl, rfl, rfl⟩

theorem Reads.nil (h : s.mode0Byte = none) : Reads s 0 0 s := ⟨by simp, rfl, h, by simp [State.fetchOps, Ops], rfl⟩

/-- A byte brought in, then the others. -/
theorem Reads.cons (h : s.mode0Byte = none) {m n : Nat} (hm : s.decoder.expectsOpcode = decide (0 < m)) {d : Decoder}
    (hf : Reads (s.takeByte d) (m - 1) n f) : Reads s m (n + 1) f := by
  obtain ⟨hpc, hr, h0, hbus⟩ := hf
  obtain ⟨tpc, -, tr, tbus⟩ := State.takeByte_of_none h hm d
  refine ⟨by rw [hpc, tpc, add_ofNat_succ], hr.trans tr, h0, ?_⟩
  rw [State.takeByte_fetchOps, tpc] at hbus
  rw [State.fetchOps_succ]
  exact Bus.trans tbus hbus

theorem Reads.fetched {m k : Nat} {left : List Byte} (hm : s.opcodeFetches = m) (hk : s.fromMemory left = k)
    (h : Reads s m k f) : Fetched s left f := by
  subst hm hk
  exact h

/-! ## The loop -/

theorem State.feedNext_eq {d : Decoder} {o : Option Instr} (h : s.decoder.feed s.nextByte.1 = (d, o)) :
    s.feedNext = (s.takeByte d, o) := by
  obtain ⟨-, -, hdec⟩ := s.nextByte_keeps
  simp only [State.feedNext, State.takeByte, hdec, h]

theorem fetchDecode_succ_some {d : Decoder} {i : Instr} (h : s.decoder.feed s.nextByte.1 = (d, some i)) (n : Nat) :
    fetchDecode (n + 1) s = some (i, s.takeByte d) := by
  simp only [fetchDecode, State.feedNext_eq h]

theorem fetchDecode_succ_none {d : Decoder} (h : s.decoder.feed s.nextByte.1 = (d, none)) (n : Nat) :
    fetchDecode (n + 1) s = fetchDecode n (s.takeByte d) := by
  simp only [fetchDecode, State.feedNext_eq h]

/-- The fetch loop on bytes of memory is the decoder on the list of them. -/
theorem fetchDecode_of_decodeFrom {i : Instr} {left : List Byte} (n : Nat) (s : State) (h0 : s.mode0Byte = none)
    (hd : s.decoder.Stage) (hn : s.decoder.opcodesLeft (s.peek s.pc) ≤ n)
    (h : decodeFrom s.decoder (s.ahead s.pc n) = .ok (i, left)) :
    ∃ k f, fetchDecode n s = some (i, f) ∧ left.length + k = n ∧
      Reads s (s.decoder.opcodesLeft (s.peek s.pc)) k f := by
  induction n generalizing s with
  | zero =>
    rw [State.ahead, (hd.inOperands (Nat.le_zero.1 hn)).decodeFrom_nil] at h
    cases h
  | succ n ih =>
    have hm := s.decoder.expectsOpcode_eq (s.peek s.pc)
    rcases hfeed : s.decoder.feed (s.peek s.pc) with ⟨d, o⟩
    obtain ⟨tpc, t0, -, -⟩ := State.takeByte_of_none h0 hm d
    have hfeed' : s.decoder.feed s.nextByte.1 = (d, o) := by rw [State.nextByte_fst h0, hfeed]
    cases o with
    | some j =>
      rw [State.ahead, decodeFrom_cons_some hfeed] at h
      cases h
      refine ⟨1, _, fetchDecode_succ_some hfeed' n, by rw [State.ahead_length], Reads.cons h0 hm (d := d) ?_⟩
      rw [Nat.sub_eq_zero_of_le (hd.opcodesLeft_of_answer hfeed)]
      exact Reads.nil t0
    | none =>
      obtain ⟨hstage, hleft⟩ := hd.feed hfeed
      rw [State.ahead, decodeFrom_cons_none hfeed, ← tpc, ← s.takeByte_ahead d] at h
      obtain ⟨k, f, hf, hk, hreads⟩ := ih (s.takeByte d) t0 hstage (by rw [s.takeByte_decoder, hleft]; omega) h
      rw [s.takeByte_decoder, hleft] at hreads
      exact ⟨k + 1, f, (fetchDecode_succ_none hfeed' n).trans hf, by omega, Reads.cons h0 hm hreads⟩

/-- The fetch loop from a mode-0 byte on (60 R412): the byte costs no fetch. -/
theorem fetchDecode_of_mode0 {i : Instr} {left : List Byte} {b : Byte} (n : Nat) (s : State) (h0 : s.mode0Byte = some b)
    (hd : s.decoder.Stage) (hn : s.decoder.opcodesLeft b ≤ n + 1)
    (h : decodeFrom s.decoder (b :: s.ahead s.pc n) = .ok (i, left)) :
    ∃ k f, fetchDecode (n + 1) s = some (i, f) ∧ left.length + k = n ∧ Reads s (s.decoder.opcodesLeft b - 1) k f := by
  rcases hfeed : s.decoder.feed b with ⟨d, o⟩
  have hfeed' : s.decoder.feed s.nextByte.1 = (d, o) := by rw [State.nextByte_of_some h0, hfeed]
  have ht : s.takeByte d = { s with mode0Byte := none, decoder := d } := by
    rw [State.takeByte, State.nextByte_of_some h0]
  cases o with
  | some j =>
    rw [decodeFrom_cons_some hfeed] at h
    cases h
    refine ⟨0, _, fetchDecode_succ_some hfeed' n, State.ahead_length s s.pc n, ?_⟩
    rw [ht, Nat.sub_eq_zero_of_le (hd.opcodesLeft_of_answer hfeed)]
    exact Reads.nil (s := { s with mode0Byte := none, decoder := d }) rfl
  | none =>
    obtain ⟨hstage, hleft⟩ := hd.feed hfeed
    rw [decodeFrom_cons_none hfeed, ← s.takeByte_ahead d, ht] at h
    obtain ⟨k, f, hf, hk, hreads⟩ :=
      fetchDecode_of_decodeFrom n { s with mode0Byte := none, decoder := d } rfl hstage (by rw [hleft]; omega) h
    rw [hleft] at hreads
    exact ⟨k, f, (fetchDecode_succ_none hfeed' n).trans (by rw [ht]; exact hf), hk, hreads⟩

/-! ## The four bytes that a step may fetch -/

theorem State.upcoming_of_none (h : s.mode0Byte = none) : s.upcoming = s.ahead s.pc 4 := by
  have h2 : s.pc + 1 + 1 = s.pc + 2 := (add_ofNat_succ s.pc 1).symm
  have h3 : s.pc + 2 + 1 = s.pc + 3 := by rw [← h2, BitVec.add_assoc (s.pc + 1)]; exact (add_ofNat_succ s.pc 2).symm
  simp only [State.upcoming, h, State.ahead, h2, h3]

theorem State.upcoming_of_some {b : Byte} (h : s.mode0Byte = some b) : s.upcoming = b :: s.ahead s.pc 3 := by
  have h2 : s.pc + 1 + 1 = s.pc + 2 := (add_ofNat_succ s.pc 1).symm
  simp only [State.upcoming, h, State.ahead, h2]

theorem State.fromMemory_of_none (h : s.mode0Byte = none) (left : List Byte) : s.fromMemory left = 4 - left.length := by
  simp [State.fromMemory, h]

theorem State.fromMemory_of_some {b : Byte} (h : s.mode0Byte = some b) (left : List Byte) :
    s.fromMemory left = 4 - left.length - 1 := by
  simp [State.fromMemory, h]

/-- A fetch reaches the surface by bus operations alone. -/
theorem Fetched.bus {left : List Byte} (h : Fetched s left f) : ∃ ops, Bus s f ops := by
  obtain ⟨-, -, -, hbus⟩ := h
  exact ⟨_, hbus⟩

/-- A fetch that began with an empty decoder leaves the decoder out of its frame. -/
theorem fetchDecode_frame {n : Nat} {i : Instr} (hd : s.decoder = Decoder.empty) (h : fetchDecode n s = some (i, f)) :
    SameBut [.pc, .refreshR, .mode0Byte, .bus] s f := by
  obtain ⟨hframe, hempty, -⟩ := fetchDecode_ok h
  have hdec : Part.restore s f .decoder = f := by
    show ({ f with decoder := s.decoder } : State) = f
    rw [hd, ← hempty]
  rw [SameBut] at hframe ⊢
  rw [← hdec]
  exact hframe

/-- The fetch of an instruction, in any environment: the loop of 70 R453 takes the bytes that the decoder takes. -/
theorem fetchDecode_of_decode {i : Instr} {left : List Byte} (s : State) (hd : s.decoder = Decoder.empty)
    (h : decode s.upcoming = .ok (i, left)) :
    ∃ f, fetchDecode 4 s = some (i, f) ∧ Fetched s left f ∧ SameBut [.pc, .refreshR, .mode0Byte, .bus] s f := by
  suffices hs : ∃ f, fetchDecode 4 s = some (i, f) ∧ Fetched s left f by
    obtain ⟨f, hf, hfetched⟩ := hs
    exact ⟨f, hf, hfetched, fetchDecode_frame hd hf⟩
  have hstage : s.decoder.Stage := hd ▸ .start
  have hle (b : Byte) : s.decoder.opcodesLeft b ≤ 4 := by rw [hd, Decoder.opcodesLeft_empty]; split <;> decide
  cases h0 : s.mode0Byte with
  | none =>
    rw [State.upcoming_of_none h0, decode, ← hd] at h
    obtain ⟨k, f, hf, hk, hreads⟩ := fetchDecode_of_decodeFrom 4 s h0 hstage (hle _) h
    refine ⟨f, hf, hreads.fetched ?_ ?_⟩
    · rw [State.opcodeFetches, State.upcoming_of_none h0, h0, hd]; rfl
    · rw [State.fromMemory_of_none h0]; omega
  | some b =>
    rw [State.upcoming_of_some h0, decode, ← hd] at h
    obtain ⟨k, f, hf, hk, hreads⟩ := fetchDecode_of_mode0 3 s h0 hstage (hle _) h
    refine ⟨f, hf, hreads.fetched ?_ ?_⟩
    · rw [State.opcodeFetches, State.upcoming_of_some h0, h0, hd]; rfl
    · rw [State.fromMemory_of_some h0]; omega

end Sys2Proof.Machine
end

section
/-! PROOFS. What an instruction can do to the signal surface: nothing but bus operations, HALT apart. -/

namespace Sys2Proof.Machine

/-- The signal surface and the record of bus operations of `t` are those of `s` after some bus operations. -/
def Drives (s t : State) : Prop := ∃ ops, Bus s t ops

variable {s t u : State}

theorem Drives.refl (s : State) : Drives s s := ⟨[], (List.append_nil _).symm, rfl⟩

theorem Drives.trans (h1 : Drives s t) (h2 : Drives t u) : Drives s u := by
  obtain ⟨xs, h1⟩ := h1
  obtain ⟨ys, h2⟩ := h2
  exact ⟨xs ++ ys, h1.trans h2⟩

/-- What touches neither the surface nor the record. -/
theorem Drives.keep (h : Drives s t) (hs : u.toSurface = t.toSurface) (ht : u.trace.bus = t.trace.bus) : Drives s u := by
  obtain ⟨ops, ho, hc⟩ := h
  exact ⟨ops, ht.trans ho, hs.trans hc⟩

/-! ### Single operations -/

theorem Drives.memRead (h : Drives s t) (a : Word) : Drives s (t.memRead a).2 :=
  h.trans ⟨[.readMemory a (t.peek a)], rfl, rfl⟩
theorem Drives.memWrite (h : Drives s t) (a : Word) (v : Byte) : Drives s (t.memWrite a v) :=
  h.trans ⟨[.writeMemory a v], rfl, rfl⟩
theorem Drives.ioRead (h : Drives s t) (p : Word) : Drives s (t.ioRead p).2 :=
  h.trans ⟨[.readIo p (t.portByte p)], rfl, rfl⟩
theorem Drives.ioWrite (h : Drives s t) (p : Word) (v : Byte) : Drives s (t.ioWrite p v) :=
  h.trans ⟨[.writeIo p v], rfl, rfl⟩

theorem Drives.setReg (h : Drives s t) (q : Reg8) (v : Byte) : Drives s (t.setReg q v) := h.keep rfl rfl
theorem Drives.setPair (h : Drives s t) (q : Rp) (v : Word) : Drives s (t.setPair q v) := h.keep (by simp) (by simp)
theorem Drives.setPair2 (h : Drives s t) (q : Rp2) (v : Word) : Drives s (t.setPair2 q v) :=
  by cases q <;> exact h.keep rfl rfl
theorem Drives.setIdx (h : Drives s t) (x : Idx) (v : Word) : Drives s (t.setIdx x v) := h.keep (by simp) (by simp)
theorem Drives.setHalf (h : Drives s t) (x : Idx) (k : Half) (v : Byte) : Drives s (t.setHalf x k v) :=
  h.keep (by simp) (by simp)
theorem Drives.setPc (h : Drives s t) (v : Word) : Drives s (t.setPc v) := h.keep rfl rfl
theorem Drives.writeFlags (h : Drives s t) (w : FlagWrite) : Drives s (t.writeFlags w) := h.keep rfl rfl
theorem Drives.writeFlagsUndoc (h : Drives s t) (w : FlagWrite) (a b : Bool) : Drives s (t.writeFlagsUndoc w a b) :=
  h.keep rfl rfl
theorem Drives.rewindIf (h : Drives s t) (b : Bool) : Drives s (t.rewindIf b) := h.keep (by simp) (by simp)

/-! ### Shared operations -/

theorem Drives.memRead16 (h : Drives s t) (a : Word) : Drives s (t.memRead16 a).2 := (h.memRead a).memRead (a + 1)
theorem Drives.memWrite16 (h : Drives s t) (a v : Word) : Drives s (t.memWrite16 a v) :=
  (h.memWrite a _).memWrite (a + 1) _
theorem Drives.push16 (h : Drives s t) (v : Word) : Drives s (t.push16 v) := h.trans ⟨_, (t.push16_pushes v).2.2⟩
theorem Drives.pop16 (h : Drives s t) : Drives s t.pop16.2 := h.trans ⟨_, t.pop16_pops.2⟩
theorem Drives.storeAt (h : Drives s t) (a : Word) (v : Byte) : Drives s (t.storeAt a v) := (h.memRead a).memWrite a v
theorem Drives.storeAt16 (h : Drives s t) (a v : Word) : Drives s (t.storeAt16 a v) := (h.memRead a).memWrite16 a v
theorem Drives.modifyAt (h : Drives s t) (a : Word) (f : Byte → Byte) : Drives s (t.modifyAt a f) :=
  (h.memRead a).memWrite a _
theorem Drives.modifyAlt (h : Drives s t) (a : Word) (r : Reg8) (f : Byte → Byte) : Drives s (t.modifyAlt a r f) :=
  ((h.memRead a).memWrite a _).setReg r _
theorem Drives.alu (h : Drives s t) (op : AluOp) (v : Byte) : Drives s (t.alu op v) :=
  by cases op <;> exact h.keep rfl rfl
theorem Drives.aluAt (h : Drives s t) (op : AluOp) (a : Word) : Drives s (t.aluAt op a) := (h.memRead a).alu op _
theorem Drives.incAt (h : Drives s t) (a : Word) : Drives s (t.incAt a) := ((h.memRead a).memWrite a _).writeFlags _
theorem Drives.decAt (h : Drives s t) (a : Word) : Drives s (t.decAt a) := ((h.memRead a).memWrite a _).writeFlags _
theorem Drives.rotA (h : Drives s t) (op : RotOp) : Drives s (t.rotA op) := (h.setReg .a _).writeFlags _
theorem Drives.rotReg (h : Drives s t) (op : RotOp) (r : Reg8) : Drives s (t.rotReg op r) := (h.setReg r _).writeFlags _
theorem Drives.rotAt (h : Drives s t) (op : RotOp) (a : Word) : Drives s (t.rotAt op a) :=
  ((h.memRead a).memWrite a _).writeFlags _
theorem Drives.rotAlt (h : Drives s t) (op : RotOp) (a : Word) (r : Reg8) : Drives s (t.rotAlt op a r) :=
  (((h.memRead a).memWrite a _).setReg r _).writeFlags _
theorem Drives.bitTest (h : Drives s t) (b : BitVec 3) (m : Byte) : Drives s (t.bitTest b m) := h.writeFlagsUndoc _ _ _
theorem Drives.bitTestAt (h : Drives s t) (b : BitVec 3) (a : Word) : Drives s (t.bitTestAt b a) :=
  (h.memRead a).bitTest b _
theorem Drives.loadAIff (h : Drives s t) (v : Byte) : Drives s (t.loadAIff v) := (h.setReg .a v).writeFlags _
theorem Drives.ldUnit (h : Drives s t) (k : Word) : Drives s (t.ldUnit k) :=
  (((((h.memRead _).memWrite _ _).setPair .hl _).setPair .de _).setPair .bc _).writeFlags _
theorem Drives.cpUnit (h : Drives s t) (k : Word) : Drives s (t.cpUnit k) :=
  (((h.memRead _).setPair .hl _).setPair .bc _).writeFlags _
theorem Drives.inUnit (h : Drives s t) (k : Word) : Drives s (t.inUnit k) :=
  ((((h.ioRead _).memWrite _ _).setPair .hl _).setReg .b _).writeFlagsUndoc _ _ _
theorem Drives.outUnit (h : Drives s t) (k : Word) : Drives s (t.outUnit k) :=
  ((((h.memRead _).setReg .b _).ioWrite _ _).setPair .hl _).writeFlagsUndoc _ _ _
theorem Drives.branch (h : Drives s t) (d : Byte) : Drives s (t.branch d) := h.setPc _
theorem Drives.callTo (h : Drives s t) (nn : Word) : Drives s (t.callTo nn) := (h.push16 _).setPc nn
theorem Drives.popPc (h : Drives s t) : Drives s t.popPc := h.pop16.setPc _
theorem Drives.returnInterrupt (h : Drives s t) : Drives s t.returnInterrupt := h.pop16.keep rfl rfl
theorem Drives.ite {p : Prop} [Decidable p] (h1 : Drives s t) (h2 : Drives s u) : Drives s (if p then t else u) := by
  split <;> assumption

/-- Every instruction but HALT, whatever its operands: the operations it is made of, in order. -/
theorem exec_drives (i : Instr) (hi : i ≠ .halt) (s : State) : ∃ t, exec i s = .next t ∧ Drives s t := by
  have h := Drives.refl s
  cases i with
  | halt => exact absurd rfl hi
  | nop | noni | nopEmpty => exact ⟨_, rfl, h⟩
  | prefixCB | prefixDD | prefixED | prefixFD | di | ei | im | ldIA | ldRA | exAfAf | exx =>
    exact ⟨_, rfl, h.keep rfl rfl⟩
  -- Loads, stack and exchanges (41).
  | ldRR | ldRXHalf | ldRN | resR | setR => exact ⟨_, rfl, h.setReg _ _⟩
  | ldXHalfR | ldXHalfN => exact ⟨_, rfl, h.setHalf _ _ _⟩
  | ldAtHlR | ldAtXdR | ldAtXdXHalf | ldAtHlN | ldAtXdN | ldAtRrA | ldAtNnA => exact ⟨_, rfl, h.storeAt _ _⟩
  | ldAAtRr | ldAAtNn => exact ⟨_, rfl, (h.memRead _).setReg _ _⟩
  | ldRpNn | ldSpHl | ldSpX | incRp | decRp => exact ⟨_, rfl, h.setPair _ _⟩
  | ldXNn | incX | decX => exact ⟨_, rfl, h.setIdx _ _⟩
  | ldHlAtNn | ldRpAtNn => exact ⟨_, rfl, (h.memRead16 _).setPair _ _⟩
  | ldXAtNn => exact ⟨_, rfl, (h.memRead16 _).setIdx _ _⟩
  | ldAtNnHl | ldAtNnX | ldAtNnRp => exact ⟨_, rfl, h.storeAt16 _ _⟩
  | pushRp2 | pushX => exact ⟨_, rfl, h.push16 _⟩
  | popRp2 => exact ⟨_, rfl, h.pop16.setPair2 _ _⟩
  | popX => exact ⟨_, rfl, h.pop16.setIdx _ _⟩
  | exDeHl => exact ⟨_, rfl, (h.setPair _ _).setPair _ _⟩
  | exAtSpHl => exact ⟨_, rfl, ((h.memRead16 _).memWrite16 _ _).setPair _ _⟩
  | exAtSpX => exact ⟨_, rfl, ((h.memRead16 _).memWrite16 _ _).setIdx _ _⟩
  -- Block instructions (42).
  | ldi | ldd => exact ⟨_, rfl, h.ldUnit _⟩
  | ldir | lddr => exact ⟨_, rfl, (h.ldUnit _).rewindIf _⟩
  | cpi | cpd => exact ⟨_, rfl, h.cpUnit _⟩
  | cpir | cpdr => exact ⟨_, rfl, (h.cpUnit _).rewindIf _⟩
  | ini | ind => exact ⟨_, rfl, h.inUnit _⟩
  | inir | indr => exact ⟨_, rfl, (h.inUnit _).rewindIf _⟩
  | outi | outd => exact ⟨_, rfl, h.outUnit _⟩
  | otir | otdr => exact ⟨_, rfl, (h.outUnit _).rewindIf _⟩
  -- Arithmetic and logic (43).
  | addAR | adcAR | subR | sbcAR | andR | xorR | orR | cpR
  | addAXHalf | adcAXHalf | subXHalf | sbcAXHalf | andXHalf | xorXHalf | orXHalf | cpXHalf
  | addAN | adcAN | subN | sbcAN | andN | xorN | orN | cpN => exact ⟨_, rfl, h.alu _ _⟩
  | addAAtHl | adcAAtHl | subAtHl | sbcAAtHl | andAtHl | xorAtHl | orAtHl | cpAtHl
  | addAAtXd | adcAAtXd | subAtXd | sbcAAtXd | andAtXd | xorAtXd | orAtXd | cpAtXd => exact ⟨_, rfl, h.aluAt _ _⟩
  | incR | decR | daa | cpl | neg => exact ⟨_, rfl, (h.setReg _ _).writeFlags _⟩
  | incXHalf | decXHalf => exact ⟨_, rfl, (h.setHalf _ _ _).writeFlags _⟩
  | incAtHl | incAtXd => exact ⟨_, rfl, h.incAt _⟩
  | decAtHl | decAtXd => exact ⟨_, rfl, h.decAt _⟩
  | addHlRp | adcHlRp | sbcHlRp => exact ⟨_, rfl, (h.setPair _ _).writeFlags _⟩
  | addXRp => exact ⟨_, rfl, (h.setIdx _ _).writeFlags _⟩
  | scf | ccf => exact ⟨_, rfl, h.writeFlags _⟩
  -- Rotates, shifts and bits (44).
  | rlca | rrca | rla | rra => exact ⟨_, rfl, h.rotA _⟩
  | rlcR | rrcR | rlR | rrR | slaR | sraR | sllR | srlR => exact ⟨_, rfl, h.rotReg _ _⟩
  | rlcAtHl | rrcAtHl | rlAtHl | rrAtHl | slaAtHl | sraAtHl | sllAtHl | srlAtHl
  | rlcAtXd | rrcAtXd | rlAtXd | rrAtXd | slaAtXd | sraAtXd | sllAtXd | srlAtXd => exact ⟨_, rfl, h.rotAt _ _⟩
  | rlcAlt | rrcAlt | rlAlt | rrAlt | slaAlt | sraAlt | sllAlt | srlAlt => exact ⟨_, rfl, h.rotAlt _ _ _⟩
  | bitR => exact ⟨_, rfl, h.bitTest _ _⟩
  | bitAtHl | bitAtXd => exact ⟨_, rfl, h.bitTestAt _ _⟩
  | resAtHl | resAtXd | setAtHl | setAtXd => exact ⟨_, rfl, h.modifyAt _ _⟩
  | resAlt | setAlt => exact ⟨_, rfl, h.modifyAlt _ _ _⟩
  | rld | rrd => exact ⟨_, rfl, (((h.memRead _).memWrite _ _).setReg _ _).writeFlags _⟩
  -- Jumps, calls and returns (45).
  | jp | jpHl | jpX => exact ⟨_, rfl, h.setPc _⟩
  | jr => exact ⟨_, rfl, h.branch _⟩
  | jpCc => exact ⟨_, rfl, (h.setPc _).ite h⟩
  | jrCc => exact ⟨_, rfl, (h.branch _).ite h⟩
  | djnz => exact ⟨_, rfl, ((h.setReg _ _).branch _).ite (h.setReg _ _)⟩
  | call | rst => exact ⟨_, rfl, h.callTo _⟩
  | callCc => exact ⟨_, rfl, (h.callTo _).ite h⟩
  | ret => exact ⟨_, rfl, h.popPc⟩
  | retCc => exact ⟨_, rfl, h.popPc.ite h⟩
  | retn | reti => exact ⟨_, rfl, h.returnInterrupt⟩
  -- I/O and CPU control (46).
  | inAN => exact ⟨_, rfl, (h.ioRead _).setReg _ _⟩
  | inRC => exact ⟨_, rfl, ((h.ioRead _).setReg _ _).writeFlags _⟩
  | inC => exact ⟨_, rfl, (h.ioRead _).writeFlags _⟩
  | outNA | outCR | outC0 => exact ⟨_, rfl, h.ioWrite _ _⟩
  | ldAI | ldAR => exact ⟨_, rfl, h.loadAIff _⟩

/-- Every instruction answers a next state, and reaches the surface but for the halt condition by bus operations alone. -/
theorem exec_bus (i : Instr) (s : State) : ∃ t ops, exec i s = .next t ∧ Bus s { t with halted := s.halted } ops := by
  by_cases hi : i = .halt
  · subst hi
    exact ⟨_, [], rfl, (List.append_nil _).symm, rfl⟩
  · obtain ⟨t, ht, ops, h⟩ := exec_drives i hi s
    exact ⟨t, ops, ht, by rw [← h.halted]; exact h⟩

end Sys2Proof.Machine
end

section
/-! PROOFS. A step in a quiet environment, from its three parts: the fetch, `exec`, the internal cycles. -/

namespace Sys2Proof.Machine

variable {s u : State} {i : Instr} {left : List Byte}

/-- A step that is neither killed, reset nor halted runs what it fetched (70 R452). -/
theorem step_of_fetchDecode (hk : s.kill = false) (hr : s.resetLine = false) (hh : s.halted = false)
    (hf : fetchDecode 4 s.beginStep = some (i, u)) : step s = runInstr i u := by
  have hr' : s.beginStep.resetLine = false := hr
  have hh' : s.beginStep.halted = false := hh
  simp [step, runStep, hk, hr', hh', hf]

theorem Quiet.resetLine (q : Quiet s) : s.resetLine = false := by
  obtain ⟨-, -, -, hreset, -⟩ := q
  simp [Surface.resetLine, hreset]

/-- A fetch in a quiet environment changes no more of the surface than the timing. -/
theorem Quiet.fetched_sameBut (q : Quiet s) {ops : List BusOp} (hb : Bus s u ops)
    (h : SameBut [.pc, .refreshR, .mode0Byte, .bus] s u) : SameBut [.pc, .refreshR, .mode0Byte, .ops, .timing] s u := by
  show ({ [Part.pc, .refreshR, .mode0Byte, .ops].foldl (Part.restore s) u with
    toSurface := s.toSurface.restoreTiming u.toSurface } : State) = s
  rw [q.bus_surface hb]
  exact h

/-- Settles O43: the fetch loop follows the decoder, every instruction reaches the surface by bus operations alone, and in a
quiet environment these and the internal cycles change the timing only. -/
theorem quietStepIsFetchExecCheck : Obligations.QuietStepIsFetchExecCheck := by
  intro s i left q hh hd hdec
  obtain ⟨u, hfetch, hfetched, hframe⟩ := fetchDecode_of_decode s.beginStep hd hdec
  obtain ⟨_, hbus⟩ := hfetched.bus
  have q0 : Quiet s.beginStep := q
  obtain ⟨qu, hunmi, huint, huvec⟩ := q0.bus hbus
  obtain ⟨t, ops, hexec, hops⟩ := exec_bus i u
  obtain ⟨qt, htnmi, htint, htvec⟩ := qu.bus hops
  have qt' : Quiet t := qt
  refine ⟨u, t, t.internal (Config.extraT i (happens i u)), hfetched, q0.fetched_sameBut hbus hframe, hexec, qt',
    htnmi.trans hunmi, htint.trans huint, htvec.trans huvec, qt'.internal_sameBut _, ?_⟩
  obtain ⟨-, -, -, -, -, hkill, -⟩ := q
  rw [step_of_fetchDecode hkill q0.resetLine hh hfetch, runInstr, hexec]

end Sys2Proof.Machine
end

section
/-! PROOFS. What no instruction but a few changes: the control part of the state, F, the I/O events. -/

namespace Sys2Proof.Machine

variable {s t u : State} {i : Instr}

/-- An instruction answers once. -/
theorem Completes.of_exec {P : State → Prop} (hP : Completes i s P) (h : exec i s = .next t) : P t := by
  obtain ⟨t', ht', hp⟩ := hP
  rw [ht'] at h
  cases h
  exact hp

/-- The part of the state that only the instructions of `writesControl` change. -/
def State.control (s : State) :
    Bank × Byte × Byte × Bool × Bool × IntMode × Option Byte × Decoder × Params :=
  (s.alt, s.i, s.r, s.iff1, s.iff2, s.im, s.mode0Byte, s.decoder, s.cfg)

/-- The instructions that are there to change the control part. -/
def writesControl : Instr → Bool
  | .ldIA | .ldRA | .im _ | .di | .ei | .retn | .reti | .exAfAf | .exx
  | .prefixCB | .prefixDD | .prefixED | .prefixFD => true
  | _ => false

/-- `t` has the control part of `s`, its F unless the instruction writes F, and its I/O events unless the instruction
reaches ports. -/
def KeepsNamed (i : Instr) (s t : State) : Prop :=
  t.control = s.control ∧ (keepsF i = true → t.main.f = s.main.f) ∧
    (reachesPorts i = false → t.trace.events = s.trace.events)

theorem KeepsNamed.ite {p : Prop} [Decidable p] (h1 : KeepsNamed i s t) (h2 : KeepsNamed i s u) :
    KeepsNamed i s (if p then t else u) := by
  split <;> assumption

/-- Every instruction but those of `writesControl`: its updates, one after the other, touch no named part. -/
theorem exec_keepsNamed (i : Instr) (hi : writesControl i = false) (s : State) : Completes i s (KeepsNamed i s) := by
  cases i with
  | ldIA | ldRA | im | di | ei | retn | reti | exAfAf | exx | prefixCB | prefixDD | prefixED | prefixFD => cases hi
  -- F and the events are kept.
  | nop | noni | nopEmpty | halt
  | ldAtHlR | ldAtXdR | ldAtXdXHalf | ldAtHlN | ldAtXdN | ldAtRrA | ldAtNnA | ldAAtRr | ldAAtNn
  | ldHlAtNn | ldAtNnHl | ldAtNnX | ldAtNnRp | ldSpHl | ldSpX | pushRp2 | pushX | exDeHl | exAtSpHl
  | resAtHl | resAtXd | setAtHl | setAtXd | jp | jpHl | jpX | jr | call | rst | ret =>
    exact ⟨_, rfl, rfl, fun _ => rfl, fun _ => rfl⟩
  | ldRR r | ldRXHalf r | ldRN r | resR _ r | setR _ r | resAlt _ _ _ r | setAlt _ _ _ r =>
    cases r <;> exact ⟨_, rfl, rfl, fun _ => rfl, fun _ => rfl⟩
  | ldRpNn rp | ldRpAtNn rp | incRp rp | decRp rp =>
    cases rp <;> exact ⟨_, rfl, rfl, fun _ => rfl, fun _ => rfl⟩
  | ldXNn x | ldXAtNn x | incX x | decX x | popX x | exAtSpX x =>
    cases x <;> exact ⟨_, rfl, rfl, fun _ => rfl, fun _ => rfl⟩
  | ldXHalfR x h | ldXHalfN x h => cases x <;> cases h <;> exact ⟨_, rfl, rfl, fun _ => rfl, fun _ => rfl⟩
  | jpCc | jrCc | callCc | retCc | djnz =>
    exact ⟨_, rfl, .ite ⟨rfl, fun _ => rfl, fun _ => rfl⟩ ⟨rfl, fun _ => rfl, fun _ => rfl⟩⟩
  -- F is written, the events are kept.
  | ldi | ldd | cpi | cpd
  | addAR | adcAR | subR | sbcAR | andR | xorR | orR | cpR
  | addAXHalf | adcAXHalf | subXHalf | sbcAXHalf | andXHalf | xorXHalf | orXHalf | cpXHalf
  | addAN | adcAN | subN | sbcAN | andN | xorN | orN | cpN
  | addAAtHl | adcAAtHl | subAtHl | sbcAAtHl | andAtHl | xorAtHl | orAtHl | cpAtHl
  | addAAtXd | adcAAtXd | subAtXd | sbcAAtXd | andAtXd | xorAtXd | orAtXd | cpAtXd
  | incR | decR | daa | cpl | neg | incAtHl | incAtXd | decAtHl | decAtXd | addHlRp | adcHlRp | sbcHlRp | scf | ccf
  | rlca | rrca | rla | rra | rlcR | rrcR | rlR | rrR | slaR | sraR | sllR | srlR
  | rlcAtHl | rrcAtHl | rlAtHl | rrAtHl | slaAtHl | sraAtHl | sllAtHl | srlAtHl
  | rlcAtXd | rrcAtXd | rlAtXd | rrAtXd | slaAtXd | sraAtXd | sllAtXd | srlAtXd
  | rlcAlt | rrcAlt | rlAlt | rrAlt | slaAlt | sraAlt | sllAlt | srlAlt
  | bitR | bitAtHl | bitAtXd | rld | rrd | ldAI | ldAR => exact ⟨_, rfl, rfl, nofun, fun _ => rfl⟩
  | popRp2 rp =>
    cases rp with
    | bc | de | hl => exact ⟨_, rfl, rfl, fun _ => rfl, fun _ => rfl⟩
    | af => exact ⟨_, rfl, rfl, nofun, fun _ => rfl⟩
  | addXRp x => cases x <;> exact ⟨_, rfl, rfl, nofun, fun _ => rfl⟩
  | incXHalf x h | decXHalf x h => cases x <;> cases h <;> exact ⟨_, rfl, rfl, nofun, fun _ => rfl⟩
  | ldir | lddr | cpir | cpdr => exact ⟨_, rfl, .ite ⟨rfl, nofun, fun _ => rfl⟩ ⟨rfl, nofun, fun _ => rfl⟩⟩
  -- Ports are reached.
  | inAN | outNA | outCR | outC0 => exact ⟨_, rfl, rfl, fun _ => rfl, nofun⟩
  | inRC | inC | ini | ind | outi | outd => exact ⟨_, rfl, rfl, nofun, nofun⟩
  | inir | indr | otir | otdr => exact ⟨_, rfl, .ite ⟨rfl, nofun, nofun⟩ ⟨rfl, nofun, nofun⟩⟩

@[simp] theorem State.pop16_events (s : State) : s.pop16.2.trace.events = s.trace.events := rfl

/-- What the instructions that write the control part change of it, and of what only named instructions change. -/
theorem exec_writesControl (hi : writesControl i = true) (h : exec i s = .next t) :
    (t.i ≠ s.i → i = .ldIA) ∧ (t.r ≠ s.r → i = .ldRA) ∧ (t.im ≠ s.im → ∃ k, i = .im k) ∧
    (t.iff2 ≠ s.iff2 → i = .di ∨ i = .ei) ∧
    (t.iff1 ≠ s.iff1 → i = .di ∨ i = .ei ∨ i = .retn ∨ i = .reti) ∧ (t.alt ≠ s.alt → i = .exAfAf ∨ i = .exx) ∧
    (t.main.f ≠ s.main.f → keepsF i = false) ∧ (t.trace.events ≠ s.trace.events → reachesPorts i = true) ∧
    (t.decoder ≠ s.decoder → isPrefixRow i = true) ∧ t.mode0Byte = s.mode0Byte ∧ t.cfg = s.cfg := by
  have hexAfAf : keepsF .exAfAf = false := rfl
  cases i with
  | ldIA | ldRA | im | di | ei | retn | reti | exAfAf | exx | prefixCB | prefixDD | prefixED | prefixFD =>
    cases h
    simp [hexAfAf, isPrefixRow, State.setPfx, State.returnInterrupt]
  | _ => cases hi

theorem Drives.of_exec (hi : i ≠ .halt) (h : exec i s = .next t) : Drives s t :=
  Completes.of_exec (exec_drives i hi s) h

theorem Bus.of_exec (h : exec i s = .next t) : ∃ ops, Bus s { t with halted := s.halted } ops := by
  obtain ⟨t', ops, ht', hbus⟩ := exec_bus i s
  exact Completes.of_exec (P := fun u => ∃ ops, Bus s { u with halted := s.halted } ops) ⟨t', ht', ops, hbus⟩ h

/-- Settles O59: the instructions of `writesControl` are looked at one by one; every other keeps the control part, and F
and the I/O events as `KeepsNamed` says. -/
theorem onlyNamedInstructionsWrite : Obligations.OnlyNamedInstructionsWrite := by
  intro i s t h
  have hhalted : t.halted ≠ s.halted → i = .halt := by
    intro hne
    by_contra hi
    obtain ⟨ops, hbus⟩ := Drives.of_exec hi h
    exact hne hbus.halted
  cases hi : writesControl i with
  | false =>
    obtain ⟨hcontrol, hf, hevents⟩ := (exec_keepsNamed i hi s).of_exec h
    simp only [State.control, Prod.mk.injEq] at hcontrol
    obtain ⟨halt, hvec, hr, hiff1, hiff2, him, hmode0, hdec, hcfg⟩ := hcontrol
    exact ⟨absurd hvec, absurd hr, absurd him, hhalted, absurd hiff2, absurd hiff1, absurd halt,
      fun hne => Bool.eq_false_of_not_eq_true (mt hf hne), fun hne => Bool.eq_true_of_not_eq_false (mt hevents hne),
      absurd hdec, hmode0, hcfg, Bus.of_exec h⟩
  | true =>
    obtain ⟨hvec, hr, him, hiff2, hiff1, halt, hf, hevents, hdec, hmode0, hcfg⟩ := exec_writesControl hi h
    exact ⟨hvec, hr, him, hhalted, hiff2, hiff1, halt, hf, hevents, hdec, hmode0, hcfg, Bus.of_exec h⟩

end Sys2Proof.Machine
end

section
/-! PROOFS. Memory changes by writes to writable bytes alone, in every instruction and in every step. -/

namespace Sys2Proof.Machine

variable {s t u : State}

/-- The memories that writes to the writable bytes of `s` make of its memory. -/
inductive Stored (s : State) : Memory → Prop
  | start : Stored s s.mem
  | write {m : Memory} {a : Word} (h : Stored s m) (ha : s.writable a = true) (v : Byte) : Stored s (m.write a.toNat v)

/-- `t` has the parameters of `s`, and its memory but for writes to writable bytes (20 R60, R61). -/
def Pokes (s t : State) : Prop := t.cfg = s.cfg ∧ Stored s t.mem

theorem Pokes.refl (s : State) : Pokes s s := ⟨rfl, .start⟩

/-- What touches neither the parameters nor the memory. -/
theorem Pokes.keep (h : Pokes s t) (hc : u.cfg = t.cfg) (hm : u.mem = t.mem) : Pokes s u := by
  obtain ⟨hcfg, hmem⟩ := h
  exact ⟨hc.trans hcfg, hm ▸ hmem⟩

theorem Pokes.trans (h1 : Pokes s t) (h2 : Pokes t u) : Pokes s u := by
  obtain ⟨hcfg, hmem⟩ := h1
  obtain ⟨hcfg', hmem'⟩ := h2
  refine ⟨hcfg'.trans hcfg, ?_⟩
  generalize u.mem = m at hmem'
  induction hmem' with
  | start => exact hmem
  | write _ ha v ih => exact ih.write ((s.writable_congr hcfg _).symm.trans ha) v

/-- The canonical form is kept. -/
theorem Pokes.wf (h : Pokes s t) (hs : s.mem.wf) : t.mem.wf := by
  obtain ⟨-, hmem⟩ := h
  generalize t.mem = m at hmem
  induction hmem with
  | start => exact hs
  | @write _ a _ _ v ih => exact Memory.write_wf ih a.isLt v

theorem Pokes.memWrite (h : Pokes s t) (a : Word) (v : Byte) : Pokes s (t.memWrite a v) := by
  obtain ⟨hcfg, hmem⟩ := h
  refine ⟨hcfg, ?_⟩
  show Stored s (t.poke a v)
  cases ha : t.writable a with
  | false => rw [t.poke_not_writable ha]; exact hmem
  | true => rw [(t.poke_writable ha v).1]; exact hmem.write ((s.writable_congr hcfg a).symm.trans ha) v

theorem Pokes.memWrite16 (h : Pokes s t) (a v : Word) : Pokes s (t.memWrite16 a v) :=
  (h.memWrite a _).memWrite (a + 1) _

theorem Pokes.memRead16 (h : Pokes s t) (a : Word) : Pokes s (t.memRead16 a).2 := h.keep rfl rfl

theorem Pokes.storeAt16 (h : Pokes s t) (a v : Word) : Pokes s (t.storeAt16 a v) :=
  (h.keep (u := (t.memRead a).2) rfl rfl).memWrite16 a v

theorem Pokes.push16 (h : Pokes s t) (v : Word) : Pokes s (t.push16 v) :=
  ((h.memWrite (t.sp - 1) (hiByte v)).memWrite (t.sp - 2) (loByte v)).keep rfl rfl

theorem Pokes.ite {p : Prop} [Decidable p] (h1 : Pokes s t) (h2 : Pokes s u) : Pokes s (if p then t else u) := by
  split <;> assumption

/-- No instruction reaches memory but by writes to writable bytes. -/
theorem exec_pokes (i : Instr) (s : State) : Completes i s (Pokes s) := by
  have h := Pokes.refl s
  cases i with
  -- Nothing is written.
  | nop | noni | nopEmpty | halt | di | ei | im | ldIA | ldRA | ldAI | ldAR | prefixCB | prefixDD | prefixED | prefixFD
  | exAfAf | exx | ldRR | ldRXHalf | ldRN | resR | setR | ldAAtRr | ldAAtNn
  | addAR | adcAR | subR | sbcAR | andR | xorR | orR | cpR
  | addAXHalf | adcAXHalf | subXHalf | sbcAXHalf | andXHalf | xorXHalf | orXHalf | cpXHalf
  | addAN | adcAN | subN | sbcAN | andN | xorN | orN | cpN
  | addAAtHl | adcAAtHl | subAtHl | sbcAAtHl | andAtHl | xorAtHl | orAtHl | cpAtHl
  | addAAtXd | adcAAtXd | subAtXd | sbcAAtXd | andAtXd | xorAtXd | orAtXd | cpAtXd
  | incR | decR | daa | cpl | neg | scf | ccf | ldHlAtNn | exDeHl | ldSpHl | ldSpX | addHlRp | adcHlRp | sbcHlRp
  | cpi | cpd | outi | outd | rlca | rrca | rla | rra | rlcR | rrcR | rlR | rrR | slaR | sraR | sllR | srlR
  | bitR | bitAtHl | bitAtXd | jp | jpHl | jpX | jr | ret | retn | reti
  | inAN | inRC | inC | outNA | outCR | outC0 => exact ⟨_, rfl, h.keep rfl rfl⟩
  | ldRpNn rp | ldRpAtNn rp | incRp rp | decRp rp | popRp2 rp => cases rp <;> exact ⟨_, rfl, h.keep rfl rfl⟩
  | ldXNn x | ldXAtNn x | incX x | decX x | popX x | addXRp x => cases x <;> exact ⟨_, rfl, h.keep rfl rfl⟩
  | ldXHalfR x k | ldXHalfN x k | incXHalf x k | decXHalf x k =>
    cases x <;> cases k <;> exact ⟨_, rfl, h.keep rfl rfl⟩
  | jpCc | jrCc | retCc | djnz | cpir | cpdr | otir | otdr => exact ⟨_, rfl, .ite (h.keep rfl rfl) (h.keep rfl rfl)⟩
  -- One byte is written.
  | ldAtHlR | ldAtXdR | ldAtXdXHalf | ldAtHlN | ldAtXdN | ldAtRrA | ldAtNnA
  | incAtHl | incAtXd | decAtHl | decAtXd
  | rlcAtHl | rrcAtHl | rlAtHl | rrAtHl | slaAtHl | sraAtHl | sllAtHl | srlAtHl
  | rlcAtXd | rrcAtXd | rlAtXd | rrAtXd | slaAtXd | sraAtXd | sllAtXd | srlAtXd
  | rlcAlt | rrcAlt | rlAlt | rrAlt | slaAlt | sraAlt | sllAlt | srlAlt
  | resAtHl | resAtXd | setAtHl | setAtXd | resAlt | setAlt | rld | rrd
  | ldi | ldd | ini | ind => exact ⟨_, rfl, (h.memWrite _ _).keep rfl rfl⟩
  | ldir | lddr | inir | indr =>
    exact ⟨_, rfl, .ite ((h.memWrite _ _).keep rfl rfl) ((h.memWrite _ _).keep rfl rfl)⟩
  -- A word is written.
  | ldAtNnHl | ldAtNnX | ldAtNnRp => exact ⟨_, rfl, h.storeAt16 _ _⟩
  | exAtSpHl => exact ⟨_, rfl, ((h.memRead16 s.sp).memWrite16 s.sp s.hl).keep rfl rfl⟩
  | exAtSpX x => cases x <;> exact ⟨_, rfl, ((h.memRead16 s.sp).memWrite16 s.sp _).keep rfl rfl⟩
  | pushRp2 | pushX | call | rst => exact ⟨_, rfl, (h.push16 _).keep rfl rfl⟩
  | callCc => exact ⟨_, rfl, Pokes.ite ((h.push16 _).keep rfl rfl) h⟩

end Sys2Proof.Machine
end

section
/-! PROOFS. What a step can do, and that it keeps the boundary invariant. -/

namespace Sys2Proof.Machine

variable {s t u : State}

/-- The ends of a step that answers a next state (70 R452): the reset sequence, the halted cycle, or one instruction. -/
theorem step_cases (h : step s = .next t) :
    s.kill = false ∧ t.stuck = none ∧
      ((s.resetLine = true ∧ t = s.beginStep.resetSequence) ∨
        (s.resetLine = false ∧ s.halted = true ∧ t = s.beginStep.haltedCycle.interruptCheck) ∨
        (s.resetLine = false ∧ s.halted = false ∧
          ∃ i f u, fetchDecode 4 s.beginStep = some (i, f) ∧ exec i f = .next u ∧
          t = (u.internal (Config.extraT i (happens i f))).interruptCheck)) := by
  have hr : s.beginStep.resetLine = s.resetLine := rfl
  have hh : s.beginStep.halted = s.halted := rfl
  unfold step runStep at h
  dsimp only at h
  rw [hr, hh] at h
  split at h
  · cases h
  next hkill =>
  refine ⟨by simpa using hkill, ?_⟩
  split at h
  · next hreset =>
    obtain ⟨rfl, hs⟩ := toOut_next h
    exact ⟨hs, .inl ⟨hreset, rfl⟩⟩
  next hreset =>
  replace hreset : s.resetLine = false := by simpa using hreset
  split at h
  · next hhalted =>
    obtain ⟨rfl, hs⟩ := toOut_next h
    exact ⟨hs, .inr (.inl ⟨hreset, hhalted, rfl⟩)⟩
  next hhalted =>
  replace hhalted : s.halted = false := by simpa using hhalted
  split at h
  · next i f hf =>
    obtain ⟨u, hu, -⟩ := exec_pokes i f
    rw [runInstr, hu] at h
    obtain ⟨rfl, hs⟩ := toOut_next h
    exact ⟨hs, .inr (.inr ⟨hreset, hhalted, i, f, u, hf, hu, rfl⟩)⟩
  · cases h

/-- The state of an NMI acknowledge after its opcode fetch (60 R405). -/
def State.nmiAcknowledged (s : State) : State :=
  ((({ s with nmiLatch := false, halted := false }.cycle .nmiAcknowledge).record (.nmiAcknowledge s.pc)).incR).release

theorem State.enterNmi_eq (s : State) :
    s.enterNmi = { s.nmiAcknowledged.enterAt 0x0066#16 with iff2 := s.iff1, iff1 := false } := rfl

/-- The state of an INT acknowledge before the mode says where PC goes (60 R407 to R410). -/
def State.acknowledged (s : State) : State :=
  { { s with intLatch := false, halted := false }.acknowledge.2 with iff1 := false, iff2 := false }

/-- What follows an INT acknowledge, by the mode (60 R408 to R411). -/
theorem State.enterInt_cases (s : State) :
    ∃ v, (s.im = .mode0 ∧ s.enterInt = { s.acknowledged with mode0Byte := some v }) ∨
      (s.im = .mode1 ∧ s.enterInt = s.acknowledged.enterAt 0x0038#16) ∨
      (s.im = .mode2 ∧ s.enterInt = s.acknowledged.enterMode2 v) := by
  refine ⟨{ s with intLatch := false, halted := false }.acknowledge.1, ?_⟩
  unfold State.enterInt
  dsimp only
  split
  · next him => exact .inl ⟨him, rfl⟩
  · next him => exact .inr (.inl ⟨him, rfl⟩)
  · next him => exact .inr (.inr ⟨him, rfl⟩)

/-! ## Memory -/

theorem fetchDecode_pokes {n : Nat} {i : Instr} (h : fetchDecode n s = some (i, t)) : Pokes s t := by
  obtain ⟨hframe, -, -⟩ := fetchDecode_ok h
  exact (Pokes.refl s).keep (congrArg State.cfg hframe :) (congrArg State.mem hframe :)

theorem Pokes.enterAt (h : Pokes s t) (a : Word) : Pokes s (t.enterAt a) := (h.push16 t.pc).keep rfl rfl

theorem Pokes.enterMode2 (h : Pokes s t) (v : Byte) : Pokes s (t.enterMode2 v) :=
  ((h.push16 t.pc).memRead16 (joinBytes t.i v)).keep rfl rfl

theorem Pokes.enterNmi (h : Pokes s t) : Pokes s t.enterNmi := by
  have hack : Pokes s t.nmiAcknowledged := h.keep rfl rfl
  rw [State.enterNmi_eq]
  exact (hack.enterAt 0x0066#16).keep rfl rfl

theorem Pokes.enterInt (h : Pokes s t) : Pokes s t.enterInt := by
  have hack : Pokes s t.acknowledged := h.keep rfl rfl
  rcases t.enterInt_cases with ⟨v, ⟨-, e⟩ | ⟨-, e⟩ | ⟨-, e⟩⟩ <;> rw [e]
  · exact hack.keep rfl rfl
  · exact hack.enterAt 0x0038#16
  · exact hack.enterMode2 v

theorem Pokes.interruptCheck (h : Pokes s t) : Pokes s t.interruptCheck := by
  unfold State.interruptCheck
  split
  · exact h.enterNmi
  split
  · exact h.enterInt
  · exact h

/-- No step reaches memory but by writes to writable bytes. -/
theorem step_pokes (h : step s = .next t) : Pokes s t := by
  have hbegin : Pokes s s.beginStep := (Pokes.refl s).keep rfl rfl
  obtain ⟨-, -, ⟨-, rfl⟩ | ⟨-, -, rfl⟩ | ⟨-, -, i, f, u, hf, hu, rfl⟩⟩ := step_cases h
  · exact hbegin.keep rfl rfl
  · exact .interruptCheck (hbegin.keep rfl rfl)
  · have hexec := (exec_pokes i f).of_exec hu
    exact .interruptCheck (((hbegin.trans (fetchDecode_pokes hf)).trans hexec).keep rfl rfl)

/-! ## The decoder -/

theorem State.enterInt_decoder (s : State) : s.enterInt.decoder = s.decoder := by
  rcases s.enterInt_cases with ⟨v, ⟨-, e⟩ | ⟨-, e⟩ | ⟨-, e⟩⟩ <;> rw [e] <;> rfl

theorem State.interruptCheck_decoder (s : State) : s.interruptCheck.decoder = s.decoder := by
  unfold State.interruptCheck
  split
  · rfl
  split
  · exact s.enterInt_decoder
  · rfl

/-- The decoder is empty between two steps (10 R38). -/
theorem step_decoder (h : step s = .next t) (hd : s.decoder = Decoder.empty) : t.decoder = Decoder.empty := by
  obtain ⟨-, -, ⟨-, rfl⟩ | ⟨-, -, rfl⟩ | ⟨-, -, i, f, u, hf, hu, rfl⟩⟩ := step_cases h
  · rfl
  · exact (State.interruptCheck_decoder _).trans hd
  · obtain ⟨-, hempty, hprefix⟩ := fetchDecode_ok hf
    obtain ⟨-, -, -, -, -, -, -, -, -, hdec, -⟩ := onlyNamedInstructionsWrite i f u hu
    have hu : u.decoder = f.decoder := by
      by_contra hne
      simp [hdec hne] at hprefix
    exact (State.interruptCheck_decoder _).trans (hu.trans hempty)

/-! ## The lines and kill -/

/-- Between two bus operations: no kill is pending, and no line is asserted unless a phase never ended. -/
def Surface.Idle (c : Surface) : Prop := c.kill = false ∧ (c.stuck = none → c.pins.lines = {})

theorem Surface.Idle.cycle {c : Surface} (h : c.Idle) (k : BusCycle) : (c.cycle k).release.Idle := by
  obtain ⟨hkill, -⟩ := h
  exact ⟨Surface.cycle_kill hkill k, fun _ => rfl⟩

theorem Surface.Idle.operations {c : Surface} (h : c.Idle) (ops : List BusOp) : (c.operations ops).Idle := by
  induction ops generalizing c with
  | nil => exact h
  | cons op ops ih => exact ih (h.cycle op.cycle)

theorem Surface.Idle.internal {c : Surface} (h : c.Idle) (n : Nat) : (c.internal n).Idle := by
  obtain ⟨-, hkill, hlines⟩ := c.internal_cases n
  obtain ⟨hc, -⟩ := h
  exact ⟨hkill hc, fun hs => (hlines hs).2⟩

theorem Drives.idle (h : Drives s t) (hs : s.toSurface.Idle) : t.toSurface.Idle := by
  obtain ⟨ops, -, hops⟩ := h
  rw [hops]
  exact hs.operations ops

theorem Surface.Idle.resetClock {c : Surface} (h : c.Idle) : c.resetClock.Idle := by
  obtain ⟨hkill, hlines⟩ := h
  unfold Surface.resetClock
  rcases c.after_cases ((c.publish {}).setKind .other).edge with ⟨f, hs, e⟩ | ⟨hs, e⟩ | ⟨f, hs, -, e⟩
  · rw [e]
    exact ⟨hkill, hlines⟩
  · obtain ⟨-, hl, hk⟩ := Surface.edge_ok e
    exact ⟨hk hkill, fun _ => hl⟩
  · rw [e]
    exact ⟨hkill, fun _ => hlines hs⟩

theorem Drives.opcodeFetch (h : Drives s t) (a : Word) : Drives s (t.opcodeFetch a).2 :=
  h.trans ⟨[.fetchOpcode a (t.peek a)], rfl, rfl⟩

theorem State.nextByte_drives (s : State) : Drives s s.nextByte.2 := by
  have h := Drives.refl s
  cases h0 : s.mode0Byte with
  | some b =>
    rw [State.nextByte_of_some h0]
    exact h.keep rfl rfl
  | none =>
    rw [State.nextByte_of_none h0]
    cases s.decoder.expectsOpcode with
    | true => exact (h.opcodeFetch s.pc).keep rfl rfl
    | false => exact (h.memRead s.pc).keep rfl rfl

/-- A fetch reaches the surface by bus operations alone. -/
theorem fetchDecode_drives {n : Nat} {i : Instr} (h : fetchDecode n s = some (i, t)) : Drives s t := by
  induction n generalizing s with
  | zero => cases h
  | succ n ih =>
    have hfeed : Drives s s.feedNext.1 := s.nextByte_drives.keep rfl rfl
    unfold fetchDecode at h
    split at h
    · next hu =>
      cases h
      rwa [hu] at hfeed
    · next hu =>
      rw [hu] at hfeed
      exact hfeed.trans (ih h)

theorem Drives.enterAt (h : Drives s t) (a : Word) : Drives s (t.enterAt a) := (h.push16 t.pc).setPc a

theorem Drives.enterMode2 (h : Drives s t) (v : Byte) : Drives s (t.enterMode2 v) :=
  ((h.push16 t.pc).memRead16 _).setPc _

theorem State.enterNmi_idle (h : s.toSurface.Idle) : s.enterNmi.toSurface.Idle := by
  have h0 : Surface.Idle { s.toSurface with nmiLatch := false, halted := false } := h
  have hack : s.nmiAcknowledged.toSurface.Idle := h0.cycle .nmiAcknowledge
  rw [State.enterNmi_eq]
  exact ((Drives.refl _).enterAt 0x0066#16).idle hack

theorem State.enterInt_idle (h : s.toSurface.Idle) : s.enterInt.toSurface.Idle := by
  have h0 : Surface.Idle { s.toSurface with intLatch := false, halted := false } := h
  have hack : s.acknowledged.toSurface.Idle := h0.cycle .intAcknowledge
  rcases s.enterInt_cases with ⟨v, ⟨-, e⟩ | ⟨-, e⟩ | ⟨-, e⟩⟩ <;> rw [e]
  · exact hack
  · exact ((Drives.refl _).enterAt 0x0038#16).idle hack
  · exact ((Drives.refl _).enterMode2 v).idle hack

theorem State.interruptCheck_idle (h : s.toSurface.Idle) : s.interruptCheck.toSurface.Idle := by
  unfold State.interruptCheck
  split
  · exact State.enterNmi_idle h
  split
  · exact State.enterInt_idle h
  · exact h

theorem step_idle (h : step s = .next t) (hs : s.toSurface.Idle) : t.toSurface.Idle := by
  have hbegin : s.beginStep.toSurface.Idle := hs
  obtain ⟨-, -, ⟨-, rfl⟩ | ⟨-, -, rfl⟩ | ⟨-, -, i, f, u, hf, hu, rfl⟩⟩ := step_cases h
  · exact hbegin.resetClock
  · exact State.interruptCheck_idle (((Drives.refl _).opcodeFetch _).idle hbegin)
  · have hfetch := (fetchDecode_drives hf).idle hbegin
    have hexec : u.toSurface.Idle := Drives.idle (t := { u with halted := f.halted }) (Bus.of_exec hu) hfetch
    exact State.interruptCheck_idle (hexec.internal _)

/-- Settles O57: a step keeps the canonical memory (`step_pokes`), the empty decoder (`step_decoder`) and the idle lines
(`step_idle`), and answers a next state only where no phase is stuck. -/
theorem stepKeepsBoundary : Obligations.StepKeepsBoundary := by
  rintro s t ⟨hwf, hdec, hlines, hkill, -⟩ h
  obtain ⟨-, hstuck, -⟩ := step_cases h
  obtain ⟨hkill', hlines'⟩ := step_idle h ⟨hkill, fun _ => hlines⟩
  exact ⟨(step_pokes h).wf hwf, step_decoder h hdec, hlines' hstuck, hkill', hstuck⟩

end Sys2Proof.Machine
end

section
/-! PROOFS. Signals and the reset sequence: signals reach neither the timing nor the clock. -/

namespace Sys2Proof.Machine

variable {s t : State}

/-- Signals bring a kill exactly where one of them is a kill. -/
theorem Surface.signals_kill (c : Surface) (e : Edge) : (c.signals e).kill = (c.kill || decide (Signal.kill ∈ e)) := by
  induction e generalizing c with
  | nil => simp [Surface.signals]
  | cons x e ih =>
    have hx : (c.signal x).kill = (c.kill || decide (Signal.kill = x)) := by cases x <;> simp [Surface.signal]
    calc (c.signals (x :: e)).kill = ((c.signal x).kill || decide (Signal.kill ∈ e)) := ih (c.signal x)
      _ = (c.kill || decide (Signal.kill ∈ x :: e)) := by simp [hx, Bool.or_assoc]

/-- `c` with the timing and the clock of `d`. -/
def Surface.timedAs (c d : Surface) : Surface := { d.restoreTiming c with clock := d.clock }

theorem Surface.timedAs_signals (c d : Surface) (e : Edge) :
    (c.timedAs d).signals e = (c.signals e).timedAs d := by
  induction e generalizing c with
  | nil => rfl
  | cons x e ih =>
    have hx : (c.timedAs d).signal x = (c.signal x).timedAs d := by cases x <;> rfl
    calc (c.timedAs d).signals (x :: e) = ((c.timedAs d).signal x).signals e := rfl
      _ = (c.signals (x :: e)).timedAs d := by rw [hx, ih]; rfl

/-- An edge that comes and brings no kill retires one T-cycle, and its signals are seen (20 R86; 60 R401). -/
theorem Surface.edge_eq {c : Surface} (hends : c.clock = [] → c.clockEnds = false) (hk : c.kill = false)
    (hkill : Signal.kill ∉ c.clock.head?.getD []) :
    c.edge = .ok ({ c with clock := c.clock.tail }.retire 1 |>.signals (c.clock.take 1).flatten) := by
  cases hclock : c.clock with
  | nil =>
    have hc : ({ c with clock := [] } : Surface) = c := by rw [← hclock]
    simp [Surface.edge_quiet hclock (hends hclock), Surface.signals, hc]
  | cons e rest =>
    rw [hclock] at hkill
    have hk' : (({ c with clock := rest }.retire 1).signals e).kill = false := by
      rw [Surface.signals_kill]
      simp_all
    simp [Surface.edge, hclock, Surface.takeEdge, hk']

/-- The surface at the edge of a reset: the lines deasserted, M-cycle Other, one clock retired (log entry 11). -/
def Surface.resetEdge (c : Surface) : Surface := { (c.publish {}).setKind .other with clock := c.clock.tail }.retire 1

/-- The clock of a reset leaves what its signals bring, with the timing of its edge. -/
theorem Surface.resetClock_eq {c : Surface} (hends : c.clock = [] → c.clockEnds = false) (hk : c.kill = false)
    (hs : c.stuck = none) (hkill : Signal.kill ∉ c.clock.head?.getD []) :
    c.resetClock = (c.signals (c.clock.take 1).flatten).timedAs c.resetEdge := by
  have hedge := Surface.edge_eq (c := (c.publish {}).setKind .other) hends hk hkill
  rw [Surface.resetClock, hedge, Surface.after_ok c hs, ← Surface.timedAs_signals]
  rfl

theorem step_of_resetLine (hk : s.kill = false) (hr : s.resetLine = true) :
    step s = toOut s.beginStep.resetSequence := by
  have hr' : s.beginStep.resetLine = true := hr
  simp [step, runStep, hk, hr']

/-- Settles O46: the edge of the reset sequence changes the timing and the clock, and lets its signals arrive. -/
theorem resetSequenceStep : Obligations.ResetSequenceStep := by
  intro s hk hs hr hends hkill
  have hclock : s.beginStep.resetClock =
      (s.toSurface.signals (s.clock.take 1).flatten).timedAs s.beginStep.resetEdge := by
    have hbegin : s.beginStep.toSurface = s.toSurface.timedAs s.beginStep.toSurface := rfl
    rw [Surface.resetClock_eq (c := s.beginStep.toSurface) hends hk hs hkill, hbegin, Surface.timedAs_signals]
    rfl
  have hstuck : s.beginStep.resetSequence.stuck = none := by
    show s.beginStep.resetClock.stuck = none
    rw [hclock]
    exact (Surface.signals_clocked _ _).2.2.trans hs
  refine ⟨s.beginStep.resetSequence, ?_⟩
  rw [step_of_resetLine hk hr, toOut_ok hstuck, State.resetSequence, hclock]
  exact ⟨rfl, rfl, rfl, rfl, rfl, rfl, rfl, rfl, rfl, rfl, rfl, rfl, rfl, rfl, rfl, rfl⟩

end Sys2Proof.Machine
end

section
/-! PROOFS. The halted cycle, the signal surface, power-on. -/

namespace Sys2Proof.Machine

variable {s t : State}

/-! ## The halted cycle -/

theorem bumpR_msb (r : Byte) : (bumpR r).getLsbD 7 = r.getLsbD 7 := by
  simp [bumpR]

/-- R[6:0] counts modulo 128 (10 R27). -/
theorem bumpR_mod (r : Byte) : (bumpR r).toNat % 128 = (r.toNat % 128 + 1) % 128 := by
  revert r
  decide

theorem step_of_halted (hk : s.kill = false) (hr : s.resetLine = false) (hh : s.halted = true) :
    step s = toOut s.beginStep.haltedCycle.interruptCheck := by
  have hr' : s.beginStep.resetLine = false := hr
  have hh' : s.beginStep.halted = true := hh
  simp [step, runStep, hk, hr', hh']

theorem State.interruptCheck_of_none (hn : s.nmiLatch = false) (hi : s.intLatch = false ∨ s.iff1 = false) :
    s.interruptCheck = s := by
  rcases hi with hi | hi <;> simp [State.interruptCheck, hn, hi]

/-- The halted cycle is one bus operation. -/
theorem State.haltedCycle_bus (s : State) : Bus s s.haltedCycle [.fetchOpcode s.pc (s.peek s.pc)] := ⟨rfl, rfl⟩

theorem Quiet.haltedCycle_tInstr (q : Quiet s) : s.haltedCycle.tInstr = s.tInstr + 4 := by
  obtain ⟨hclock, hends, hbusreq, -, hwait, -, hstuck⟩ := q
  show (s.toSurface.cycle .fetchOpcode).tInstr = s.tInstr + 4
  rw [Surface.cycle_quiet hclock hends hbusreq hwait hstuck]
  show s.tInstr + 1 + 1 + 1 + 1 = s.tInstr + 4
  simp only [BitVec.add_assoc]
  rfl

/-- Settles O47: the halted cycle is one opcode fetch, which in a quiet environment changes R and the timing. -/
theorem haltedStep : Obligations.HaltedStep := by
  refine ⟨fun r => ⟨bumpR_msb r, bumpR_mod r⟩, fun s q hh => ?_⟩
  have q0 : Quiet s.beginStep := q
  have hbus := s.beginStep.haltedCycle_bus
  have hsurface : s.toSurface.restoreTiming s.beginStep.haltedCycle.toSurface = s.toSurface := by
    have h := congrArg s.toSurface.restoreTiming (q0.bus_surface hbus)
    exact h
  obtain ⟨qu, hnmi, hint, -⟩ := q0.bus hbus
  obtain ⟨-, -, -, -, -, hk, -⟩ := q
  have hstep := step_of_halted hk q0.resetLine hh
  refine ⟨s.beginStep.haltedCycle, hstep, rfl, rfl, q0.haltedCycle_tInstr, ?_, fun hn hi => ?_⟩
  · show ({ s with toSurface := s.toSurface.restoreTiming s.beginStep.haltedCycle.toSurface } : State) = s
    rw [hsurface]
  · obtain ⟨-, -, -, -, -, -, hstuck⟩ := qu
    have hi' : s.beginStep.haltedCycle.intLatch = false ∨ s.beginStep.haltedCycle.iff1 = false :=
      hi.imp hint.trans id
    rw [hstep, State.interruptCheck_of_none (hnmi.trans hn) hi', toOut_ok hstuck]

/-! ## What the outside can do -/

theorem mem_setSource (sources : List Nat) (k j : Nat) (on : Bool) :
    j ∈ setSource sources k on ↔ if j = k then on = true else j ∈ sources := by
  cases on with
  | true =>
    by_cases hk : k ∈ sources
    · by_cases hj : j = k <;> simp [setSource, hk, hj]
    · by_cases hj : j = k <;> simp [setSource, hk, hj]
  | false => by_cases hj : j = k <;> simp [setSource, hj]

/-- A line is asserted exactly while it has a source (10 R36). -/
theorem line_iff (sources : List Nat) : (!sources.isEmpty) = true ↔ ∃ j, j ∈ sources := by
  cases sources <;> simp

/-- No signal clears a latch. -/
theorem State.signal_keeps_latches (s : State) (x : Signal) :
    (s.intLatch = true → (s.signal x).intLatch = true) ∧ (s.nmiLatch = true → (s.signal x).nmiLatch = true) := by
  cases x with
  | int => exact ⟨fun _ => rfl, id⟩
  | nmi => exact ⟨id, fun _ => rfl⟩
  | _ => exact ⟨id, id⟩

theorem step_of_kill (h : s.kill = true) : step s = .fault .killed := by simp [step, runStep, h]

theorem Surface.edge_of_kill {c : Surface} {e : Edge} {rest : List Edge} (hc : c.clock = e :: rest)
    (h : Signal.kill ∈ e) : c.edge = .error .killedMidStep := by
  simp [Surface.edge, hc, Surface.takeEdge, Surface.signals_kill, h]

/-- Settles O51: each signal reaches its own part of the surface, and a kill stops the edge that brings it. -/
theorem signalSurface : Obligations.SignalSurface := by
  intro s
  refine ⟨rfl, rfl, rfl, rfl, rfl, rfl, s.signal_keeps_latches, fun v => ⟨rfl, rfl⟩, line_iff _, line_iff _, line_iff _,
    fun k on => ⟨fun j => ⟨mem_setSource _ k j on, mem_setSource _ k j on, mem_setSource _ k j on⟩, rfl, rfl, rfl⟩,
    step_of_kill, fun f hf => by simp [toOut, hf], fun e rest hc hk => Surface.edge_of_kill hc hk⟩

/-! ## Power-on -/

/-- Settles O56: the values of `State.reset`, whose memory is canonical. -/
theorem powerOnState : Obligations.PowerOnState :=
  ⟨⟨reset_mem_wf, rfl, rfl, rfl, rfl⟩, rfl, rfl, rfl, rfl, rfl, rfl, rfl, rfl, rfl, rfl, rfl, rfl, rfl⟩

end Sys2Proof.Machine
end

section
/-! PROOFS. PUSH and POP, absolute jumps. -/

namespace Sys2Proof.Machine

variable {s t : State}

/-- The bytes `pre` take the decoder to an entry with a 16-bit immediate, whose low and high byte follow (30 R124). -/
theorem decodes_imm16 {pre : List Byte} {d : Decoder} {v : Decoded} {i : Instr} {lo hi : Byte}
    (hpre : ∀ bs, decode (pre ++ bs) = decodeFrom d bs)
    (hd : d.altPending = false ∧ d.awaitDisp = false ∧ d.immRemaining = 2 ∧ d.inflight = some v)
    (hinstr : { v with imm := joinBytes hi lo }.toInstr d.pfx = i) : Decodes (pre ++ [lo, hi]) i := by
  intro rest
  obtain ⟨halt, hdisp, himm, hv⟩ := hd
  rw [List.append_assoc, hpre]
  simp [decodeFrom, Decoder.feed, halt, hdisp, himm, Decoder.current, hv, finalize, hinstr]

/-! ## PUSH and POP -/

theorem decodes_push (rp : Rp2) : Decodes [opXPQZ 3 rp.code 0 5] (.pushRp2 rp) := by
  cases rp <;> exact fun _ => rfl
theorem decodes_pop (rp : Rp2) : Decodes [opXPQZ 3 rp.code 0 1] (.popRp2 rp) := by
  cases rp <;> exact fun _ => rfl
theorem decodes_pushX (x : Idx) : Decodes [x.prefixByte, 0xE5#8] (.pushX x) := by
  cases x <;> exact fun _ => rfl
theorem decodes_popX (x : Idx) : Decodes [x.prefixByte, 0xE1#8] (.popX x) := by
  cases x <;> exact fun _ => rfl

/-- F as a byte is the sum of its flags at their masks (10 R28). -/
theorem Flags.toByte_toNat (f : Flags) :
    f.toByte.toNat =
      0x80 * f.s.toNat + 0x40 * f.z.toNat + 0x20 * f.f5.toNat + 0x10 * f.h.toNat + 0x08 * f.f3.toNat +
        0x04 * f.pv.toNat + 0x02 * f.n.toNat + 0x01 * f.c.toNat := by
  obtain ⟨s, z, f5, h, f3, pv, n, c⟩ := f
  revert s z f5 h f3 pv n c
  decide

theorem State.pair2_setPair2 (s : State) (rp : Rp2) (v : Word) : (s.setPair2 rp v).pair2 rp = v := by
  cases rp with
  | bc => exact s.pair_setPair_same .bc v
  | de => exact s.pair_setPair_same .de v
  | hl => exact s.pair_setPair_same .hl v
  | af => simp [State.setPair2, State.pair2]

theorem Pops.setPair2 {t : State} (h : Pops s t) (rp : Rp2) (v : Word) : Pops s (t.setPair2 rp v) := by
  cases rp <;> exact h

theorem State.pop16_setPair2_frame (s : State) (rp : Rp2) (v : Word) :
    SameBut (.sp :: .bus :: pair2Parts rp) s (s.pop16.2.setPair2 rp v) := by
  cases rp <;> rfl

/-- Settles O7: PUSH is `push16` of the operand, POP is `pop16` and a write of the popped word to the operand. -/
theorem pushAndPop : Obligations.PushAndPop := by
  refine ⟨fun rp => ⟨decodes_push rp, decodes_pop rp⟩, fun x => ⟨decodes_pushX x, decodes_popX x⟩, fun s => ?_⟩
  refine ⟨by simp [State.pair2], hiByte_joinBytes _ _, ?_, fun rp => ⟨_, rfl, s.push16_pushes _, s.push16_frame _⟩,
    fun x => ⟨_, rfl, s.push16_pushes _, s.push16_frame _⟩, fun rp => ⟨_, rfl, ?_⟩, fun x => ⟨_, rfl, ?_⟩⟩
  · exact (congrArg BitVec.toNat (loByte_joinBytes _ _)).trans s.main.f.toByte_toNat
  · exact ⟨State.pair2_setPair2 _ rp _, s.pop16_pops.setPair2 rp _, s.pop16_setPair2_frame rp _⟩
  · refine ⟨State.idx_setIdx_same _ x _, ?_, ?_⟩
    · cases x <;> exact s.pop16_pops
    · cases x <;> rfl

/-! ## Absolute jumps -/

theorem decodes_jp (lo hi : Byte) : Decodes [0xC3#8, lo, hi] (.jp (joinBytes hi lo)) :=
  decodes_imm16 (pre := [0xC3#8]) (fun _ => rfl) ⟨rfl, rfl, rfl, rfl⟩ rfl

theorem decodes_jp_prefixed (x : Idx) (lo hi : Byte) :
    Decodes [x.prefixByte, 0xC3#8, lo, hi] (.jp (joinBytes hi lo)) := by
  cases x <;> exact decodes_imm16 (pre := [_, 0xC3#8]) (fun _ => rfl) ⟨rfl, rfl, rfl, rfl⟩ rfl

theorem decodes_jpCc (cc : Cond) (lo hi : Byte) : Decodes [opXYZ 3 cc.code 2, lo, hi] (.jpCc cc (joinBytes hi lo)) := by
  cases cc <;> exact decodes_imm16 (pre := [_]) (fun _ => rfl) ⟨rfl, rfl, rfl, rfl⟩ rfl

theorem decodes_jpX (x : Idx) : Decodes [x.prefixByte, 0xE9#8] (.jpX x) := by
  cases x <;> exact fun _ => rfl

/-- The condition table of 10 R30. -/
theorem cond_holds_iff (f : Flags) :
    (Cond.nz.holds f = true ↔ f.z = false) ∧ (Cond.z.holds f = true ↔ f.z = true) ∧
    (Cond.nc.holds f = true ↔ f.c = false) ∧ (Cond.c.holds f = true ↔ f.c = true) ∧
    (Cond.po.holds f = true ↔ f.pv = false) ∧ (Cond.pe.holds f = true ↔ f.pv = true) ∧
    (Cond.p.holds f = true ↔ f.s = false) ∧ (Cond.m.holds f = true ↔ f.s = true) := by
  simp [Cond.holds]

theorem State.setPc_frame (s : State) (v : Word) : SameBut [.pc] s (s.setPc v) := rfl

theorem completes_jpCc (cc : Cond) (nn : Word) (s : State) :
    Completes (.jpCc cc nn) s fun t => t.pc = (if cc.holds s.main.f then nn else s.pc) ∧ SameBut [.pc] s t := by
  refine ⟨_, rfl, ?_⟩
  cases hc : cc.holds s.main.f with
  | true => exact ⟨rfl, s.setPc_frame nn⟩
  | false => exact ⟨rfl, rfl⟩

/-- Settles O29: every taken jump is one write of PC, and one that is not taken changes nothing. -/
theorem absoluteJumps : Obligations.AbsoluteJumps :=
  ⟨cond_holds_iff, rfl, decodes_jp, decodes_jp_prefixed, decodes_jpCc, fun _ => rfl, decodes_jpX, fun s =>
    ⟨fun nn => ⟨_, rfl, rfl, s.setPc_frame nn⟩, fun cc nn => completes_jpCc cc nn s, ⟨_, rfl, rfl, s.setPc_frame _⟩,
      fun _ => ⟨_, rfl, rfl, s.setPc_frame _⟩⟩⟩

end Sys2Proof.Machine
end

section
/-! PROOFS. Bytes that no step can change, the memory map and its registration. -/

namespace Sys2Proof

/-! ## The memory map -/

theorem Region.covers_iff (r : Region) (a : Word) : r.covers a = true ↔ r.low ≤ a ∧ a ≤ r.high := by
  simp [Region.covers]

theorem Region.overlaps_iff (q r : Region) : q.overlaps r = true ↔ q.low ≤ r.high ∧ r.low ≤ q.high := by
  simp [Region.overlaps]

/-- Two regions that cover one address overlap. -/
theorem Region.overlaps_of_covers {q r : Region} {a : Word} (hq : q.covers a = true) (hr : r.covers a = true) :
    q.overlaps r = true := by
  obtain ⟨hqlow, hqhigh⟩ := (q.covers_iff a).1 hq
  obtain ⟨hrlow, hrhigh⟩ := (r.covers_iff a).1 hr
  exact (q.overlaps_iff r).2 ⟨BitVec.le_trans hqlow hrhigh, BitVec.le_trans hrlow hqhigh⟩

theorem MemMap.register_eq_none_iff (m : MemMap) (r : Region) :
    m.register r = none ↔ ∃ q ∈ m, q.low ≤ r.high ∧ r.low ≤ q.high := by
  simp [MemMap.register, Region.overlaps_iff]

/-- A registration that succeeds puts the region last, and keeps the map free of overlaps (20 R62). -/
theorem MemMap.register_eq_some {m m' : MemMap} {r : Region} (hm : m.wf) (h : m.register r = some m') :
    m' = m ++ [r] ∧ m'.wf := by
  unfold MemMap.register at h
  split at h
  · cases h
  · next hany =>
    cases h
    exact ⟨rfl, by simpa [List.pairwise_append, hm] using hany⟩

theorem MemMap.resolve_cons (r : Region) (m : MemMap) (a : Word) :
    MemMap.resolve (r :: m) a = if r.low ≤ a ∧ a ≤ r.high then some r else m.resolve a := by
  simp only [MemMap.resolve, List.find?_cons, ← r.covers_iff a]
  cases r.covers a <;> rfl

/-- In a map without overlaps an address has no region but the one that covers it. -/
theorem MemMap.resolve_eq_some_iff {m : MemMap} (hm : m.wf) (a : Word) (r : Region) :
    m.resolve a = some r ↔ r ∈ m ∧ r.low ≤ a ∧ a ≤ r.high := by
  rw [← r.covers_iff a]
  induction m with
  | nil => simp [MemMap.resolve]
  | cons q m ih =>
    obtain ⟨hq, hm⟩ := List.pairwise_cons.1 hm
    rw [MemMap.resolve_cons]
    split
    · next hcovers =>
      have hqc := (q.covers_iff a).2 hcovers
      constructor
      · rintro ⟨⟩
        exact ⟨List.mem_cons_self, hqc⟩
      · rintro ⟨hr, hrc⟩
        rcases List.mem_cons.1 hr with rfl | hr
        · rfl
        · have hoverlap := Region.overlaps_of_covers hqc hrc
          simp [hq r hr] at hoverlap
    · next hcovers =>
      rw [ih hm, List.mem_cons]
      constructor
      · rintro ⟨hr, hrc⟩
        exact ⟨.inr hr, hrc⟩
      · rintro ⟨rfl | hr, hrc⟩
        · exact absurd ((r.covers_iff a).1 hrc) hcovers
        · exact ⟨hr, hrc⟩

end Sys2Proof

namespace Sys2Proof.Machine

variable {s t : State}

/-! ## Unmapped and read-only bytes -/

theorem Stored.read_of_not_writable {m : Memory} (h : Stored s m) {a : Word} (ha : s.writable a = false) :
    m.read a.toNat = s.mem.read a.toNat := by
  induction h with
  | start => rfl
  | @write m b h hb v ih =>
    have hne : a.toNat ≠ b.toNat := fun hab => by
      rw [BitVec.eq_of_toNat_eq hab, hb] at ha
      cases ha
    rw [Memory.read_write, if_neg hne, ih]

theorem Pokes.peek_of_not_writable (h : Pokes s t) {a : Word} (ha : s.writable a = false) : t.peek a = s.peek a := by
  obtain ⟨hcfg, hmem⟩ := h
  simp only [State.peek, hcfg, hmem.read_of_not_writable ha]

/-- Settles O58: a step reaches memory by writes to writable bytes alone (`step_pokes`). -/
theorem stepKeepsMapAndReadOnlyBytes : Obligations.StepKeepsMapAndReadOnlyBytes := by
  intro s t h
  obtain ⟨hcfg, hmem⟩ := step_pokes h
  exact ⟨hcfg, fun a ha => Pokes.peek_of_not_writable ⟨hcfg, hmem⟩ ha⟩

theorem State.writable_of_unmapped {a : Word} (h : s.cfg.memMap.resolve a = none) : s.writable a = false := by
  simp [State.writable, h]

theorem State.writable_of_readOnly {a : Word} {r : Region} (h : s.cfg.memMap.resolve a = some r)
    (hr : r.readOnly = true) : s.writable a = false := by
  simp [State.writable, h, hr]

/-- A write that memory ignores is a bus operation and nothing else (20 R60, R61). -/
theorem State.memWrite_ignored {a : Word} (h : s.writable a = false) (v : Byte) :
    SameBut [.bus] s (s.memWrite a v) ∧ Bus s (s.memWrite a v) [.writeMemory a v] := by
  refine ⟨?_, s.memWrite_bus a v, rfl⟩
  calc Part.restore s (s.memWrite a v) .bus = { s with mem := s.poke a v } := rfl
    _ = s := by rw [s.poke_not_writable h]

/-- Settles O55: a map is scanned in order, and where no two regions overlap at most one of them covers an address. -/
theorem mapsAndRegistration : Obligations.MapsAndRegistration := by
  refine ⟨fun m r hm => ⟨m.register_eq_none_iff r, fun m' => MemMap.register_eq_some hm⟩,
    fun m a r hm => MemMap.resolve_eq_some_iff hm a r, fun ro => rfl, fun ro => rfl,
    fun m a r => MemMap.resolve_cons r m a, fun r a => rfl, fun s a v h => ⟨by simp [State.peek, h], ?_⟩,
    fun s a v r h hr => State.memWrite_ignored (State.writable_of_readOnly h hr) v,
    fun m p => ⟨by simp [PortMap.register], fun m' h => ?_⟩, fun s hi lo => by simp [State.portMapped]⟩
  · exact State.memWrite_ignored (State.writable_of_unmapped h) v
  · unfold PortMap.register at h
    split at h <;> cases h
    rfl

end Sys2Proof.Machine
end

section
/-! PROOFS. Port input: IN, and the units of the block I/O instructions. -/

namespace Sys2Proof.Machine

variable {s t : State}

/-! ## IN -/

/-- The bytes `pre` take the decoder to an entry with an 8-bit immediate, which follows (30 R124). -/
theorem decodes_imm8 {pre : List Byte} {d : Decoder} {v : Decoded} {i : Instr} {n : Byte}
    (hpre : ∀ bs, decode (pre ++ bs) = decodeFrom d bs)
    (hd : d.altPending = false ∧ d.awaitDisp = false ∧ d.immRemaining = 1 ∧ d.awaitHigh = false ∧ d.inflight = some v)
    (hinstr : { v with imm := joinBytes (hiByte v.imm) n }.toInstr d.pfx = i) : Decodes (pre ++ [n]) i := by
  intro rest
  obtain ⟨halt, hdisp, himm, hhigh, hv⟩ := hd
  rw [List.append_assoc, hpre]
  simp [decodeFrom, Decoder.feed, halt, hdisp, himm, hhigh, Decoder.current, hv, finalize, hinstr]

theorem decodes_inAN (n : Byte) : Decodes [0xDB#8, n] (.inAN n) :=
  decodes_imm8 (pre := [0xDB#8]) (fun _ => rfl) ⟨rfl, rfl, rfl, rfl, rfl⟩ (congrArg Instr.inAN (loByte_joinBytes _ n))

theorem decodes_inRC (q : Reg8) : Decodes [0xED#8, opXYZ 1 q.code 0] (.inRC q) := by
  cases q <;> exact fun _ => rfl

/-- `t` is `s` after one read of a port: the bus operation, its event, the answer taken from the devices (20 R66). -/
def ReadsPort (s : State) (port : Word) (t : State) : Prop :=
  Bus s t [.readIo port (s.portByte port)] ∧ t.trace.events = s.trace.events ++ [.read port (s.portByte port)] ∧
    t.portAnswers = (if s.portMapped port then s.portAnswers.tail else s.portAnswers)

theorem State.ioRead_readsPort (s : State) (port : Word) : ReadsPort s port (s.ioRead port).2 :=
  ⟨⟨s.ioRead_bus port, rfl⟩, s.ioRead_events port, rfl⟩

/-- What touches neither the surface, the records nor the answers. -/
theorem ReadsPort.keep {u : State} {port : Word} (h : ReadsPort s port t) (hs : u.toSurface = t.toSurface)
    (ht : u.trace = t.trace) (ha : u.portAnswers = t.portAnswers) : ReadsPort s port u := by
  unfold ReadsPort Bus Ops at h ⊢
  rwa [hs, ht, ha]

theorem State.portByte_unmapped {port : Word} (h : s.portMapped port = false) : s.portByte port = 0 := by
  simp [State.portByte, h]

theorem State.portByte_mapped {port : Word} (h : s.portMapped port = true) :
    s.portByte port = s.portAnswers.head?.getD (Config.ioRead s.trace.events port) := by
  unfold State.portByte
  rw [if_pos h]
  cases s.portAnswers <;> rfl

theorem parityEven_eq (v : Byte) : parityEven v = Rule.parity v := by
  simp [parityEven, Rule.parity, List.countP_eq_length_filter]

theorem msb_eq_getLsbD (v : Byte) : v.msb = v.getLsbD 7 := BitVec.msb_eq_getLsbD_last v

/-- S, Z and parity from a byte, C kept (40 R175). -/
theorem State.writeFlags_szp (s : State) (v : Byte) (h : Bool) :
    LogicFlags (s.writeFlags (szpFlags v h none)).main.f v h false s.main.f.c ∧
      UndocAre s (s.writeFlags (szpFlags v h none)) (v.getLsbD 5) (v.getLsbD 3) := by
  refine ⟨?_, s.writeFlags_undoc (szpFlags v h none)⟩
  rw [LogicFlags, ← msb_eq_getLsbD, ← parityEven_eq]
  exact s.writeFlags_flags (szpFlags v h none)

theorem completes_inAN (n : Byte) (s : State) : Completes (.inAN n) s fun t =>
    ReadsPort s (joinBytes s.main.a n) t ∧ t.main.a = s.portByte (joinBytes s.main.a n) ∧
      SameBut [.reg .a, .bus, .events, .answers] s t := by
  refine ⟨_, rfl, (s.ioRead_readsPort _).keep rfl rfl rfl, rfl, ?_⟩
  cases s
  rfl

/-- S, Z and parity of the byte at B:C, C kept, with the undocumented bits from it (40 R175, R177). -/
def PortFlags (s t : State) : Prop :=
  LogicFlags t.main.f (s.portByte s.portBC) false false s.main.f.c ∧
    UndocAre s t ((s.portByte s.portBC).getLsbD 5) ((s.portByte s.portBC).getLsbD 3)

theorem completes_inRC (q : Reg8) (s : State) : Completes (.inRC q) s fun t =>
    ReadsPort s s.portBC t ∧ t.reg q = s.portByte s.portBC ∧ PortFlags s t ∧
      SameBut [.reg q, .flags, .draws, .bus, .events, .answers] s t := by
  have hflags := ((s.ioRead s.portBC).2.setReg q (s.portByte s.portBC)).writeFlags_szp (s.portByte s.portBC) false
  rw [State.setReg_f] at hflags
  refine ⟨_, rfl, (s.ioRead_readsPort _).keep rfl rfl rfl, by simp, hflags, ?_⟩
  cases s
  cases q <;> rfl

theorem completes_inC (s : State) : Completes .inC s fun t =>
    ReadsPort s s.portBC t ∧ PortFlags s t ∧ SameBut [.flags, .draws, .bus, .events, .answers] s t := by
  have hflags := (s.ioRead s.portBC).2.writeFlags_szp (s.portByte s.portBC) false
  refine ⟨_, rfl, (s.ioRead_readsPort _).keep rfl rfl rfl, hflags, ?_⟩
  cases s
  rfl

/-- Settles O33: each form is one `ioRead`, then a register write, a flag write, or both. -/
theorem portInput : Obligations.PortInput :=
  ⟨decodes_inAN, decodes_inRC, fun _ => rfl, fun s => ⟨fun _ => State.portByte_unmapped, fun _ => State.portByte_mapped,
    fun n => completes_inAN n s, fun q => completes_inRC q s, completes_inC s⟩⟩

/-! ## Block input and output -/

theorem getLsbD_four (v : Byte) : v.getLsbD 4 = decide (v &&& 0x10#8 ≠ 0) := by
  revert v
  decide

/-- The flags of a block I/O unit (42 R241, R250, R254): C is kept, S and PV are undocumented. -/
def BlockIoFlags (s : State) (m old new : Byte) (t : State) : Prop :=
  t.main.f.z = decide (new = 0) ∧ t.main.f.h = decide ((m &&& old) &&& 0x10#8 ≠ 0) ∧ t.main.f.n = true ∧
    t.main.f.c = s.main.f.c ∧ UndocSPv s t (new.getLsbD 7) false ∧ UndocAre s t (new.getLsbD 5) (new.getLsbD 3)

theorem State.blockIoFlags_flags (s : State) (m old new : Byte) : BlockIoFlags s m old new (s.blockIoFlags m old new) :=
  ⟨rfl, getLsbD_four (m &&& old), rfl, rfl, s.writeFlagsUndoc_spv _ _ _, s.writeFlagsUndoc_undoc _ _ _⟩

/-- What has the F and the parameters of the states between which the flags were written. -/
theorem BlockIoFlags.congr {s' t' : State} {m old new : Byte} (h : BlockIoFlags s m old new t)
    (hc : s'.cfg = s.cfg) (hs : s'.main.f.c = s.main.f.c) (ht : t'.main = t.main) : BlockIoFlags s' m old new t' := by
  unfold BlockIoFlags UndocSPv UndocAre at h ⊢
  rwa [hc, hs, ht]

/-- The repeating forms go back by 2 where B is not 0 (42 R240). -/
theorem State.rewindIf_pc (s : State) (again : Bool) (b : Byte) :
    (s.rewindIf (again && b != 0)).pc = if again = true ∧ b ≠ 0 then s.pc - 2 else s.pc := by
  cases again with
  | false => rfl
  | true =>
    by_cases hb : b = 0
    · subst hb
      rfl
    · rw [Bool.true_and, bne_iff_ne.2 hb, if_pos ⟨rfl, hb⟩]
      rfl

theorem Bus.rewindIf {ops : List BusOp} (h : Bus s t ops) (again : Bool) : Bus s (t.rewindIf again) ops := by
  unfold Bus Ops at h ⊢
  rwa [State.rewindIf_trace, State.rewindIf_toSurface]

/-- One input unit (42 R250, R251), with the rewind of the repeating forms where `again` (R252, R253). -/
def InputUnit (s : State) (step : Word) (again : Bool) (t : State) : Prop :=
  let port := joinBytes s.main.b s.main.c
  let m := s.portByte port
  let b := s.main.b - 1
  StoresByte s t s.hl m ∧ Bus s t [.readIo port m, .writeMemory s.hl m] ∧
  t.trace.events = s.trace.events ++ [.read port m] ∧
  t.portAnswers = (if s.portMapped port then s.portAnswers.tail else s.portAnswers) ∧
  t.pair .hl = s.pair .hl + step ∧ t.main.b = b ∧
  t.main.f.z = decide (b = 0) ∧ t.main.f.h = decide ((m &&& s.main.b) &&& 0x10#8 ≠ 0) ∧ t.main.f.n = true ∧
  t.main.f.c = s.main.f.c ∧ UndocSPv s t (b.getLsbD 7) false ∧ UndocAre s t (b.getLsbD 5) (b.getLsbD 3) ∧
  t.pc = (if again = true ∧ b ≠ 0 then s.pc - 2 else s.pc) ∧
  SameBut [.mem, .bus, .events, .answers, .flags, .draws, .pc, .reg .b, .reg .h, .reg .l] s t

/-- One output unit (42 R254, R255), with the rewind of the repeating forms where `again` (R256, R257). -/
def OutputUnit (s : State) (step : Word) (again : Bool) (t : State) : Prop :=
  let m := s.peek s.hl
  let b := s.main.b - 1
  let port := joinBytes b s.main.c
  Bus s t [.readMemory s.hl m, .writeIo port m] ∧ t.trace.events = s.trace.events ++ [.write port m] ∧
  t.pair .hl = s.pair .hl + step ∧ t.main.b = b ∧
  t.main.f.z = decide (b = 0) ∧ t.main.f.h = decide ((m &&& s.main.b) &&& 0x10#8 ≠ 0) ∧ t.main.f.n = true ∧
  t.main.f.c = s.main.f.c ∧ UndocSPv s t (b.getLsbD 7) false ∧ UndocAre s t (b.getLsbD 5) (b.getLsbD 3) ∧
  t.pc = (if again = true ∧ b ≠ 0 then s.pc - 2 else s.pc) ∧
  SameBut [.bus, .events, .flags, .draws, .pc, .reg .b, .reg .h, .reg .l] s t

/-- An input unit before its flags: the byte moved, HL and B stepped. -/
def State.inUnitMoved (s : State) (step : Word) : State :=
  (((s.ioRead s.portBC).2.memWrite s.hl (s.portByte s.portBC)).setPair .hl (s.hl + step)).setReg .b (s.main.b - 1)

theorem State.inUnit_eq (s : State) (step : Word) :
    s.inUnit step = (s.inUnitMoved step).blockIoFlags (s.portByte s.portBC) s.main.b (s.main.b - 1) := rfl

theorem State.inUnit_flags (s : State) (step : Word) (again : Bool) :
    BlockIoFlags s (s.portByte s.portBC) s.main.b (s.main.b - 1) ((s.inUnit step).rewindIf again) :=
  ((s.inUnitMoved step).blockIoFlags_flags _ _ _).congr rfl rfl (State.rewindIf_main _ again)

theorem State.inUnit_frame (s : State) (step : Word) (again : Bool) :
    SameBut [.mem, .bus, .events, .answers, .flags, .draws, .pc, .reg .b, .reg .h, .reg .l] s
      ((s.inUnit step).rewindIf again) := by
  obtain ⟨surface, main⟩ := s
  cases main
  cases again <;> rfl

theorem State.inUnit_stores (s : State) (step : Word) : StoresByte s (s.inUnit step) s.hl (s.portByte s.portBC) :=
  (((s.ioRead s.portBC).2.memWrite_stores s.hl (s.portByte s.portBC)).from_eq rfl rfl).of_eq rfl rfl

theorem State.inUnit_bus (s : State) (step : Word) :
    Bus s (s.inUnit step) [.readIo s.portBC (s.portByte s.portBC), .writeMemory s.hl (s.portByte s.portBC)] :=
  ⟨List.append_assoc .., rfl⟩

theorem State.inUnit_pair (s : State) (step : Word) : (s.inUnit step).pair .hl = s.pair .hl + step :=
  joinBytes_hi_lo (s.hl + step)

theorem State.inUnit_inputUnit (s : State) (step : Word) (again : Bool) :
    InputUnit s step again ((s.inUnit step).rewindIf (again && s.main.b - 1 != 0)) := by
  obtain ⟨hz, hh, hn, hc, hspv, hundoc⟩ := s.inUnit_flags step (again && s.main.b - 1 != 0)
  refine ⟨(s.inUnit_stores step).of_eq (State.rewindIf_cfg _ _) (State.rewindIf_mem _ _), (s.inUnit_bus step).rewindIf _,
    congrArg Trace.events (State.rewindIf_trace _ _), State.rewindIf_portAnswers _ _, ?_,
    congrArg Bank.b (State.rewindIf_main _ _),
    hz, hh, hn, hc, hspv, hundoc, State.rewindIf_pc _ again _, s.inUnit_frame step _⟩
  rw [State.rewindIf_pair, s.inUnit_pair step]

/-- Settles O12: each form is `inUnit`, and the rewind of the repeating forms. -/
theorem blockInputUnit : Obligations.BlockInputUnit :=
  ⟨fun _ => rfl, fun _ => rfl, fun _ => rfl, fun _ => rfl, fun s =>
    ⟨⟨_, rfl, s.inUnit_inputUnit stepUp false⟩, ⟨_, rfl, s.inUnit_inputUnit stepDown false⟩,
      ⟨_, rfl, s.inUnit_inputUnit stepUp true⟩, ⟨_, rfl, s.inUnit_inputUnit stepDown true⟩⟩⟩

/-- An output unit before its flags: B stepped, the byte moved, HL stepped. -/
def State.outUnitMoved (s : State) (step : Word) : State :=
  (((s.memRead s.hl).2.setReg .b (s.main.b - 1)).ioWrite (joinBytes (s.main.b - 1) s.main.c) (s.peek s.hl)).setPair .hl
    (s.hl + step)

theorem State.outUnit_eq (s : State) (step : Word) :
    s.outUnit step = (s.outUnitMoved step).blockIoFlags (s.peek s.hl) s.main.b (s.main.b - 1) := rfl

theorem State.outUnit_flags (s : State) (step : Word) (again : Bool) :
    BlockIoFlags s (s.peek s.hl) s.main.b (s.main.b - 1) ((s.outUnit step).rewindIf again) :=
  ((s.outUnitMoved step).blockIoFlags_flags _ _ _).congr rfl rfl (State.rewindIf_main _ again)

theorem State.outUnit_frame (s : State) (step : Word) (again : Bool) :
    SameBut [.bus, .events, .flags, .draws, .pc, .reg .b, .reg .h, .reg .l] s ((s.outUnit step).rewindIf again) := by
  obtain ⟨surface, main⟩ := s
  cases main
  cases again <;> rfl

theorem State.outUnit_bus (s : State) (step : Word) :
    Bus s (s.outUnit step)
      [.readMemory s.hl (s.peek s.hl), .writeIo (joinBytes (s.main.b - 1) s.main.c) (s.peek s.hl)] :=
  ⟨List.append_assoc .., rfl⟩

theorem State.outUnit_pair (s : State) (step : Word) : (s.outUnit step).pair .hl = s.pair .hl + step :=
  joinBytes_hi_lo (s.hl + step)

theorem State.outUnit_outputUnit (s : State) (step : Word) (again : Bool) :
    OutputUnit s step again ((s.outUnit step).rewindIf (again && s.main.b - 1 != 0)) := by
  obtain ⟨hz, hh, hn, hc, hspv, hundoc⟩ := s.outUnit_flags step (again && s.main.b - 1 != 0)
  refine ⟨(s.outUnit_bus step).rewindIf _, congrArg Trace.events (State.rewindIf_trace _ _), ?_,
    congrArg Bank.b (State.rewindIf_main _ _),
    hz, hh, hn, hc, hspv, hundoc, State.rewindIf_pc _ again _, s.outUnit_frame step _⟩
  rw [State.rewindIf_pair, s.outUnit_pair step]

/-- Settles O13: each form is `outUnit`, and the rewind of the repeating forms. -/
theorem blockOutputUnit : Obligations.BlockOutputUnit :=
  ⟨fun _ => rfl, fun _ => rfl, fun _ => rfl, fun _ => rfl, fun s =>
    ⟨⟨_, rfl, s.outUnit_outputUnit stepUp false⟩, ⟨_, rfl, s.outUnit_outputUnit stepDown false⟩,
      ⟨_, rfl, s.outUnit_outputUnit stepUp true⟩, ⟨_, rfl, s.outUnit_outputUnit stepDown true⟩⟩⟩

end Sys2Proof.Machine
end

section
/-! PROOFS. One bus operation on the pins: its phases, WAIT, the bus request hand-off. -/

namespace Sys2Proof.Machine

/-- The edges of phases, each held until one edge. -/
def phaseTicks (kind : MCycle) (halt : Bool) (ls : List Lines) : List Tick :=
  ls.map fun l => { kind := kind, lines := l, halt := halt }

/-- What phases of one edge each leave: the counters advanced, and the record of their lines. -/
theorem Surface.phases_ticks (c : Surface) (ls : List Lines) :
    let d := ls.foldl (fun t l => (t.publish l).retire 1) c
    d.tTotal = c.tTotal + BitVec.ofNat 64 ls.length ∧ d.wave = c.wave ++ phaseTicks c.pins.mcycle c.halted ls := by
  induction ls generalizing c with
  | nil => exact ⟨(BitVec.add_zero _).symm, (List.append_nil _).symm⟩
  | cons l ls ih =>
    obtain ⟨htotal, hwave⟩ := ih ((c.publish l).retire 1)
    refine ⟨htotal.trans ?_, hwave.trans (List.append_assoc ..)⟩
    show c.tTotal + BitVec.ofNat 64 1 + BitVec.ofNat 64 ls.length = _
    rw [BitVec.add_assoc, ← BitVec.ofNat_add, Nat.add_comm, List.length_cons]

/-- A bus operation after its hand-off, where no edge brings a signal and WAIT is deasserted: one edge for each phase
(20 R72 to R78). -/
theorem Surface.operation_ticks {c d : Surface} (hd : c.handOff = .ok d) (hs : c.stuck = none) (h1 : d.clock = [])
    (h2 : d.clockEnds = false) (h5 : d.pins.waitSources = []) (op : BusOp) :
    (c.operations [op]).tTotal = d.tTotal + BitVec.ofNat 64 op.phases.length ∧
      (c.operations [op]).wave = d.wave ++ phaseTicks op.kind d.halted op.phases ∧
      d.restoreTiming (c.operations [op]) = d := by
  have hcycle : c.cycle op.cycle = op.phases.foldl (fun t l => (t.publish l).retire 1) (d.setKind op.kind) := by
    have hrun := Surface.runPhases_quiet (s := d.setKind op.kind) h1 h2 h5 op.phases
    unfold Surface.cycle Surface.runCycle
    rw [hd]
    exact (congrArg c.after hrun).trans (Surface.after_ok c hs _)
  obtain ⟨htotal, hwave⟩ := (d.setKind op.kind).phases_ticks op.phases
  rw [Surface.operations_cons, Surface.operations_nil, hcycle]
  exact ⟨htotal, hwave, by simp⟩

/-! ## The transfer of a bus operation -/

/-- Settles O52: an operation in a quiet environment has no hand-off, and each phase is one edge. -/
theorem busOperationPhases : Obligations.BusOperationPhases := by
  refine ⟨fun _ _ => ⟨rfl, rfl⟩, fun _ => ⟨rfl, rfl⟩, fun _ _ => ⟨rfl, rfl⟩, fun _ _ => ⟨rfl, rfl⟩,
    fun _ _ => ⟨rfl, rfl⟩, fun _ _ => ⟨rfl, rfl⟩, fun _ => ⟨rfl, rfl⟩, fun s op q => ?_,
    fun s a v => ⟨rfl, rfl, rfl, rfl, rfl, rfl, rfl, fun ops => Surface.operations_halted _ ops⟩⟩
  obtain ⟨hclock, hends, hbusreq, -, hwait, -, hstuck⟩ := q
  obtain ⟨htotal, hwave, hrest⟩ :=
    Surface.operation_ticks (Surface.handOff_quiet hbusreq) hstuck hclock hends hwait op
  refine ⟨rfl, htotal, hwave, ?_⟩
  show ({ s with toSurface := s.toSurface.restoreTiming (s.toSurface.operations [op]) } : State) = s
  rw [hrest]

/-! ## A line that holds the CPU -/

theorem Surface.retire_retire (c : Surface) (m n : Nat) : (c.retire m).retire n = c.retire (m + n) := by
  have hadd (v : BitVec 64) : v + BitVec.ofNat 64 m + BitVec.ofNat 64 n = v + BitVec.ofNat 64 (m + n) := by
    rw [BitVec.add_assoc, BitVec.ofNat_add]
  have hwave (w : List Tick) (x : Tick) :
      w ++ List.replicate m x ++ List.replicate n x = w ++ List.replicate (m + n) x := by
    rw [List.append_assoc, List.replicate_append_replicate]
  simp only [Surface.retire, hadd]
  simp only [Surface.haltLine, hwave]

theorem holdWhile_free {held : Surface → Bool} {stuck : Fault} {c : Surface} (h : held c = false) (es : List Edge) :
    holdWhile held stuck es c = .ok c := by
  cases es <;> simp [holdWhile, h]

/-- An edge that brings no kill (70 R458). -/
theorem Surface.takeEdge_eq {c : Surface} {e : Edge} (hk : c.kill = false) (he : Signal.kill ∉ e) (rest : List Edge) :
    c.takeEdge e rest = .ok (({ c with clock := rest }.retire 1).signals e) := by
  have hkill : (({ c with clock := rest }.retire 1).signals e).kill = false := by
    simp [Surface.signals_kill, hk, he]
  simp [Surface.takeEdge, hkill]

/-- The CPU is held over `n` edges that bring nothing, until the edge `e` frees it. -/
theorem holdWhile_released {held : Surface → Bool} {stuck : Fault} {e : Edge} (he : Signal.kill ∉ e) (n : Nat)
    (rest : List Edge) (c : Surface) (hk : c.kill = false) (hheld : ∀ d : Surface, d.pins = c.pins → held d = true)
    (hfree : ∀ d : Surface, d.pins = c.pins → held (d.signals e) = false) :
    holdWhile held stuck (List.replicate n [] ++ e :: rest) c =
      .ok (({ c with clock := rest }.retire (n + 1)).signals e) := by
  induction n generalizing c with
  | zero =>
    simp only [List.replicate, List.nil_append, holdWhile, hheld c rfl, if_true, Surface.takeEdge_eq hk he rest]
    exact holdWhile_free (hfree ({ c with clock := rest }.retire 1) rfl) rest
  | succ n ih =>
    simp only [List.replicate, List.cons_append, holdWhile, hheld c rfl, if_true,
      Surface.takeEdge_eq hk (List.not_mem_nil) (List.replicate n [] ++ e :: rest)]
    refine (ih (({ c with clock := List.replicate n [] ++ e :: rest } : Surface).retire 1) hk hheld hfree).trans ?_
    have hretire : ({ c with clock := rest }.retire 1).retire (n + 1) =
        { c with clock := rest }.retire (n + 1 + 1) := by
      rw [Surface.retire_retire, Nat.add_comm 1]
    exact congrArg (fun d : Surface => Except.ok (d.signals e)) hretire

/-- A source that asserts WAIT, and then deasserts it. -/
theorem Surface.wait_on_off {c : Surface} (h : c.pins.waitSources = []) (k : Nat) :
    (c.signal (Signal.wait k true)).signal (Signal.wait k false) = c := by
  have hsources : setSource (setSource c.pins.waitSources k true) k false = c.pins.waitSources := by
    simp [h, setSource]
  calc (c.signal (Signal.wait k true)).signal (Signal.wait k false)
      = { c with pins := { c.pins with waitSources := setSource (setSource c.pins.waitSources k true) k false } } := rfl
    _ = c := by rw [hsources]

/-- WAIT holds the CPU until the edge on which its one source lets go. -/
theorem holdWhile_wait {c : Surface} {k : Nat} (hk : c.kill = false) (hwait : c.pins.waitSources = [k]) (n : Nat)
    (rest : List Edge) :
    holdWhile Surface.wait .waitNeverReleased (List.replicate n [] ++ [Signal.wait k false] :: rest) c =
      .ok (({ c with clock := rest }.retire (n + 1)).signal (Signal.wait k false)) :=
  holdWhile_released (by simp) n rest c hk (fun d hd => by simp [Surface.wait, hd, hwait])
    (fun d hd => by simp [Surface.wait, Surface.signals, Surface.signal, setSource, hd, hwait])

/-- A phase whose edge brings WAIT keeps its lines until the edge that releases it (20 R79). -/
theorem Surface.phase_waited {c : Surface} {l : Lines} {k n : Nat} {rest : List Edge} (hk : c.kill = false)
    (hwait : c.pins.waitSources = [])
    (hclock : c.clock = [Signal.wait k true] :: (List.replicate n [] ++ [Signal.wait k false] :: rest)) :
    c.phase l = .ok ({ c.publish l with clock := rest }.retire (n + 2)) := by
  have hsources : setSource (c.publish l).pins.waitSources k true = [k] := by
    rw [show (c.publish l).pins.waitSources = [] from hwait]
    rfl
  have hround := Surface.wait_on_off (c := { c.publish l with clock := rest }.retire (n + 2)) hwait k
  have hretire : ({ c.publish l with clock := rest }.retire 1).retire (n + 1) =
      { c.publish l with clock := rest }.retire (n + 2) := by
    rw [Surface.retire_retire, Nat.add_comm 1]
  rw [← hretire] at hround ⊢
  unfold Surface.phase Surface.edge
  rw [Surface.publish_clock, hclock]
  dsimp only
  rw [Surface.takeEdge_eq (c := c.publish l) hk (by simp)]
  refine (holdWhile_wait ?_ ?_ n rest).trans ?_
  · exact hk
  · exact hsources
  · exact congrArg Except.ok hround

/-- Settles O53: the edge that brings WAIT ends its T-cycle, and `holdWhile` adds those up to its release. -/
theorem waitStretchesPhase : Obligations.WaitStretchesPhase := by
  intro s l k n rest hk hwait hclock
  exact ⟨_, Surface.phase_waited hk hwait hclock, rfl, rfl, rfl, rfl, rfl, rfl⟩

/-- A hand-off holds BUSACK alone until the edge that releases BUSREQ (20 R80). -/
theorem Surface.handOff_released {c : Surface} {k n : Nat} (hk : c.kill = false) (hbusreq : c.pins.busreqSources = [k])
    (hclock : c.clock = List.replicate n [] ++ [[.busreq k false]]) :
    c.handOff = .ok (({ c.publish { busack := true } with clock := [] }.retire (n + 1)).signal (.busreq k false)) := by
  have hheld : c.busreq = true := by simp [Surface.busreq, hbusreq]
  rw [Surface.handOff, if_pos hheld, hclock]
  exact holdWhile_released (e := [.busreq k false]) (by simp) n [] (c.publish { busack := true }) hk
    (fun d hd => by simp [Surface.busreq, hd, Surface.publish, hbusreq])
    (fun d hd => by simp [Surface.busreq, hd, Surface.signals, Surface.signal, setSource, Surface.publish, hbusreq])

/-- Settles O54: the hand-off ends with the environment quiet but for a reset line, and the operation runs. -/
theorem busRequestHandOff : Obligations.BusRequestHandOff := by
  intro s op k n hk hs hwait hbusreq hclock hends
  obtain ⟨htotal, hwave, hrest⟩ :=
    Surface.operation_ticks (Surface.handOff_released hk hbusreq hclock) hs rfl hends hwait op
  have hfree : (s.operations [op]).pins.busreqSources = [] := by
    calc (s.operations [op]).pins.busreqSources = setSource s.pins.busreqSources k false :=
        (congrArg (fun c : Surface => c.pins.busreqSources) hrest :)
      _ = [] := by simp [hbusreq, setSource]
  refine ⟨by rw [Surface.busreq, hfree]; rfl, rfl, ?_, ?_, ?_⟩
  · rw [BitVec.ofNat_add, ← BitVec.add_assoc]
    exact htotal
  · rw [← List.append_assoc]
    exact hwave
  · have hsurface := congrArg
      (fun c : Surface => ({ c.timedAs s.toSurface with
        pins := { (c.timedAs s.toSurface).pins with busreqSources := s.pins.busreqSources } } : Surface)) hrest
    exact congrArg (fun c : Surface => ({ s with toSurface := c } : State)) hsurface

end Sys2Proof.Machine
end

section
/-! PROOFS. Clock edges that bring requests only: how many a step takes, and what they leave. -/

namespace Sys2Proof.Machine

variable {s t u : State} {c d e : Surface}

/-! ## Edges passed -/

/-- `RequestsOnly` reads the surface alone. -/
def Surface.OnlyRequests (c : Surface) : Prop :=
  (∀ e ∈ c.clock, ∀ x ∈ e, x = .int ∨ x = .nmi ∨ ∃ v, x = .vector v) ∧ c.clockEnds = false ∧
    c.pins.busreqSources = [] ∧ c.pins.resetSources = [] ∧ c.pins.waitSources = [] ∧ c.kill = false ∧ c.stuck = none

theorem requestsOnly_iff_surface (s : State) : RequestsOnly s ↔ s.toSurface.OnlyRequests := Iff.rfl

theorem Quiet.requestsOnly (q : Quiet s) : RequestsOnly s := by
  obtain ⟨hclock, hrest⟩ := q
  exact ⟨by simp [hclock], hrest⟩

/-- `c` with the signals of its next `n` listed edges arrived. -/
def Surface.seen (c : Surface) (n : Nat) : Surface := c.signals (c.clock.take n).flatten

theorem State.seen_eq (s : State) (n : Nat) : s.seen n = { s with toSurface := s.toSurface.seen n } := rfl

/-- `d` is `c` after `n` clock edges: the signals of the listed ones arrived, both counters advanced, and nothing else
but the timing changed. Quiet edges follow the listed ones (log entry 7). -/
def Surface.Passes (c : Surface) (n : Nat) (d : Surface) : Prop :=
  d.clock = c.clock.drop n ∧ d.tTotal = c.tTotal + BitVec.ofNat 64 n ∧ d.tInstr = c.tInstr + BitVec.ofNat 64 n ∧
    d = (c.seen n).timedAs d

theorem Surface.Passes.refl (c : Surface) : c.Passes 0 c :=
  ⟨rfl, (BitVec.add_zero _).symm, (BitVec.add_zero _).symm, rfl⟩

theorem Surface.signals_append (c : Surface) (x y : Edge) : c.signals (x ++ y) = (c.signals x).signals y :=
  List.foldl_append ..

theorem Surface.Passes.trans {m n : Nat} (h1 : c.Passes m d) (h2 : d.Passes n e) : c.Passes (m + n) e := by
  obtain ⟨hclock, htotal, hinstr, hd⟩ := h1
  obtain ⟨hclock', htotal', hinstr', he⟩ := h2
  refine ⟨by rw [hclock', hclock, List.drop_drop], by rw [htotal', htotal, BitVec.add_assoc, BitVec.ofNat_add],
    by rw [hinstr', hinstr, BitVec.add_assoc, BitVec.ofNat_add], ?_⟩
  have hseen : c.seen (m + n) = (c.seen m).signals (d.clock.take n).flatten := by
    rw [Surface.seen, List.take_add, List.flatten_append, Surface.signals_append, hclock]
    rfl
  calc e = (d.seen n).timedAs e := he
    _ = (((c.seen m).timedAs d).signals (d.clock.take n).flatten).timedAs e := by rw [← hd]; rfl
    _ = (c.seen (m + n)).timedAs e := by rw [Surface.timedAs_signals, hseen]; rfl

theorem Surface.Passes.publish (c : Surface) (l : Lines) : c.Passes 0 (c.publish l) :=
  ⟨rfl, (BitVec.add_zero _).symm, (BitVec.add_zero _).symm, rfl⟩

theorem Surface.Passes.setKind (c : Surface) (k : MCycle) : c.Passes 0 (c.setKind k) :=
  ⟨rfl, (BitVec.add_zero _).symm, (BitVec.add_zero _).symm, rfl⟩

/-- Put back the timing and the clock, and what is left is the signals that arrived. -/
theorem Surface.Passes.restored {n : Nat} (h : c.Passes n d) : d.timedAs (c.seen n) = c.seen n := by
  obtain ⟨-, -, -, hd⟩ := h
  rw [hd]
  rfl

/-- Requests reach the latches and the vector byte alone (60 R401). -/
theorem Surface.signals_requests (c : Surface) {e : Edge} (he : ∀ x ∈ e, x = .int ∨ x = .nmi ∨ ∃ v, x = .vector v) :
    c.signals e = { c with
      nmiLatch := c.nmiLatch || decide (Signal.nmi ∈ e)
      intLatch := c.intLatch || decide (Signal.int ∈ e)
      intVector := (c.signals e).intVector } := by
  induction e generalizing c with
  | nil => simp [Surface.signals]
  | cons x e ih =>
    obtain ⟨hx, he⟩ := List.forall_mem_cons.1 he
    have hcons : c.signals (x :: e) = (c.signal x).signals e := rfl
    rw [hcons, ih (c.signal x) he]
    obtain rfl | rfl | ⟨v, rfl⟩ := hx <;> simp [Surface.signal]

/-- What passing edges that bring requests only makes of a surface. -/
theorem Surface.Passes.eq {n : Nat} (h : c.Passes n d) (hc : c.OnlyRequests) :
    d = { c.timedAs d with
      nmiLatch := c.nmiLatch || decide (Signal.nmi ∈ (c.clock.take n).flatten)
      intLatch := c.intLatch || decide (Signal.int ∈ (c.clock.take n).flatten)
      intVector := (c.seen n).intVector } := by
  obtain ⟨-, -, -, hd⟩ := h
  obtain ⟨hreq, -⟩ := hc
  have he : ∀ x ∈ (c.clock.take n).flatten, x = .int ∨ x = .nmi ∨ ∃ v, x = .vector v := fun x hx => by
    obtain ⟨e, he, hxe⟩ := List.mem_flatten.1 hx
    exact hreq e (List.mem_of_mem_take he) x hxe
  refine hd.trans ?_
  rw [Surface.seen, c.signals_requests he]
  rfl

theorem Surface.Passes.onlyRequests {n : Nat} (h : c.Passes n d) (hc : c.OnlyRequests) : d.OnlyRequests := by
  have hd := h.eq hc
  obtain ⟨hclock, -⟩ := h
  obtain ⟨hreq, hrest⟩ := hc
  refine ⟨fun e he => hreq e (List.mem_of_mem_drop (hclock ▸ he)), ?_⟩
  rw [hd]
  exact hrest

/-! ## One edge, one phase, one bus operation -/

theorem Surface.OnlyRequests.edge (hc : c.OnlyRequests) : ∃ d, c.edge = .ok d ∧ c.Passes 1 d := by
  obtain ⟨hreq, hends, -, -, -, hk, -⟩ := hc
  have hkill : Signal.kill ∉ c.clock.head?.getD [] := fun hx => by
    cases hclock : c.clock with
    | nil => simp [hclock] at hx
    | cons e rest =>
      rw [hclock] at hx hreq
      simpa using hreq e List.mem_cons_self _ hx
  have hsignals := c.timedAs_signals ({ c with clock := c.clock.tail }.retire 1) (c.clock.take 1).flatten
  refine ⟨_, Surface.edge_eq (fun _ => hends) hk hkill, ?_⟩
  have hd : ({ c with clock := c.clock.tail }.retire 1).signals (c.clock.take 1).flatten =
    (c.seen 1).timedAs ({ c with clock := c.clock.tail }.retire 1) := hsignals
  rw [hd]
  exact ⟨List.drop_one.symm, rfl, rfl, rfl⟩

theorem Surface.OnlyRequests.phase (hc : c.OnlyRequests) (l : Lines) : ∃ d, c.phase l = .ok d ∧ c.Passes 1 d := by
  have hpub := Surface.Passes.publish c l
  obtain ⟨d, hedge, hd⟩ := (hpub.onlyRequests hc).edge
  have hcd := hpub.trans hd
  obtain ⟨-, -, -, -, hwait, -⟩ := hcd.onlyRequests hc
  have hfree : d.wait = false := by simp [Surface.wait, hwait]
  refine ⟨d, ?_, hcd⟩
  rw [Surface.phase, hedge]
  exact holdWhile_free hfree d.clock

theorem Surface.OnlyRequests.runPhases (hc : c.OnlyRequests) (ls : List Lines) :
    ∃ d, c.runPhases ls = .ok d ∧ c.Passes ls.length d := by
  induction ls generalizing c with
  | nil => exact ⟨c, rfl, .refl c⟩
  | cons l ls ih =>
    obtain ⟨d, hphase, hd⟩ := hc.phase l
    obtain ⟨e, hrun, he⟩ := ih (hd.onlyRequests hc)
    refine ⟨e, by simp only [Surface.runPhases, hphase, hrun], ?_⟩
    rw [List.length_cons, Nat.add_comm]
    exact hd.trans he

theorem Surface.OnlyRequests.cycle (hc : c.OnlyRequests) (k : BusCycle) : c.Passes k.phases.length (c.cycle k) := by
  have hkind := Surface.Passes.setKind c k.kind
  obtain ⟨d, hrun, hd⟩ := (hkind.onlyRequests hc).runPhases k.phases
  obtain ⟨-, -, hbusreq, -, -, -, hstuck⟩ := hc
  have hcycle : c.cycle k = d := by
    simp only [Surface.cycle, Surface.runCycle, Surface.handOff_quiet hbusreq, hrun, Surface.after_ok c hstuck]
  rw [hcycle, ← Nat.zero_add k.phases.length]
  exact hkind.trans hd

/-- The T-cycles of bus operations: one for each phase (20 R71). -/
def busCycles (ops : List BusOp) : Nat := (ops.map fun op => op.phases.length).sum

theorem busCycles_append (xs ys : List BusOp) : busCycles (xs ++ ys) = busCycles xs + busCycles ys := by
  simp [busCycles]

theorem Surface.OnlyRequests.operations (hc : c.OnlyRequests) (ops : List BusOp) :
    c.Passes (busCycles ops) (c.operations ops) := by
  induction ops generalizing c with
  | nil => exact .refl c
  | cons op ops ih =>
    have hop : c.Passes op.phases.length (c.cycle op.cycle).release := (hc.cycle op.cycle).trans (.publish _ {})
    exact hop.trans (ih (hop.onlyRequests hc))

/-- Internal cycles take one edge each (70 R465). -/
theorem Surface.OnlyRequests.otherCycles_passes (hc : c.OnlyRequests) (n : Nat) :
    ∃ d, otherCycles c.clock n c = .ok d ∧ c.Passes n d := by
  generalize hclock : c.clock = es
  induction es generalizing c n with
  | nil =>
    obtain ⟨-, hends, -, -, hwait, -⟩ := hc
    refine ⟨c.retire n, by simp [otherCycles, hends, Surface.wait, hwait], ?_⟩
    exact ⟨by simp [hclock], rfl, rfl, by simp [Surface.seen, hclock]; rfl⟩
  | cons e rest ih =>
    cases n with
    | zero => exact ⟨c, by simp [otherCycles], .refl c⟩
    | succ n =>
      obtain ⟨d, hedge, hd⟩ := hc.edge
      obtain ⟨-, -, -, -, hwait, -⟩ := hd.onlyRequests hc
      have hdclock : d.clock = rest := by
        obtain ⟨hdclock, -⟩ := hd
        rw [hdclock, hclock, List.drop_one, List.tail_cons]
      obtain ⟨f, hrun, hf⟩ := ih (hd.onlyRequests hc) n hdclock
      have htake : c.takeEdge e rest = .ok d := by rwa [Surface.edge, hclock] at hedge
      refine ⟨f, ?_, by rw [Nat.add_comm]; exact hd.trans hf⟩
      simp [otherCycles, htake, Surface.wait, hwait, hrun]

theorem Surface.OnlyRequests.internal (hc : c.OnlyRequests) (n : Nat) : c.Passes n (c.internal n) := by
  have hidle : c.Passes 0
      { c with pins := { c.pins with lines := {}, mcycle := if n = 0 then c.pins.mcycle else .other } } :=
    ⟨rfl, (BitVec.add_zero _).symm, (BitVec.add_zero _).symm, rfl⟩
  obtain ⟨d, hrun, hd⟩ := (hidle.onlyRequests hc).otherCycles_passes n
  obtain ⟨-, -, -, -, -, -, hstuck⟩ := hc
  have hinternal : c.internal n = d := (congrArg c.after hrun).trans (Surface.after_ok c hstuck d)
  rw [hinternal, ← Nat.zero_add n]
  exact hidle.trans hd

/-! ## A step of an instruction -/

theorem RequestsOnly.bus {ops : List BusOp} (hs : RequestsOnly s) (h : Bus s t ops) :
    s.toSurface.Passes (busCycles ops) t.toSurface := by
  obtain ⟨-, hsurface⟩ := h
  rw [hsurface]
  exact ((requestsOnly_iff_surface s).1 hs).operations ops

/-- Where passing edges changes a state and nothing else does, its frame is the timing and the clock. -/
theorem Surface.Passes.sameBut {n : Nat} (h : s.toSurface.Passes n d) :
    SameBut [.timing, .clock] (s.seen n) { s with toSurface := d } := by
  rw [State.seen_eq]
  exact congrArg (fun c : Surface => ({ s with toSurface := c } : State)) h.restored

theorem RequestsOnly.resetLine (hs : RequestsOnly s) : s.resetLine = false := by
  obtain ⟨-, -, -, hreset, -⟩ := hs
  simp [Surface.resetLine, hreset]

theorem RequestsOnly.fetched_sameBut (hs : RequestsOnly s) {ops : List BusOp} (hb : Bus s u ops)
    (h : SameBut [.pc, .refreshR, .mode0Byte, .bus] s u) :
    SameBut [.pc, .refreshR, .mode0Byte, .ops, .timing, .clock] (s.seen (busCycles ops)) u := by
  have hframe := congrArg (fun v : State => ({ v with toSurface := s.toSurface.seen (busCycles ops) } : State)) h
  show ({ [Part.pc, .refreshR, .mode0Byte, .ops].foldl (Part.restore s) u with
    toSurface := u.toSurface.timedAs (s.toSurface.seen (busCycles ops)) } : State) = _
  rw [(hs.bus hb).restored]
  exact hframe

/-- An instruction in an environment of requests: its bus operations take their edges, and beside HALT nothing else
reaches the surface. -/
theorem RequestsOnly.exec_passes (hs : RequestsOnly s) (i : Instr) :
    ∃ t ops, exec i s = .next t ∧ t.trace.bus = s.trace.bus ++ ops ∧ RequestsOnly t ∧
      s.toSurface.Passes (busCycles ops) { t.toSurface with halted := s.halted } := by
  obtain ⟨t, ops, hexec, hbus⟩ := exec_bus i s
  have hpass := hs.bus hbus
  have ht := hpass.onlyRequests ((requestsOnly_iff_surface s).1 hs)
  obtain ⟨hops, -⟩ := hbus
  exact ⟨t, ops, hexec, hops, ht, hpass⟩

/-- The frame of edges passed beside a write of the halt condition. -/
theorem Surface.Passes.sameBut_halted {n : Nat} (h : s.toSurface.Passes n { t.toSurface with halted := s.halted }) :
    SameBut [.halted, .timing, .clock] { t with toSurface := (s.seen n).toSurface } t := by
  have hhalted : (s.toSurface.seen n).halted = s.halted := (Surface.signals_clocked _ _).1
  have hrestored : Surface.timedAs { t.toSurface with halted := (s.toSurface.seen n).halted } (s.toSurface.seen n) =
      s.toSurface.seen n := by
    rw [hhalted, h.restored]
  exact congrArg (fun c : Surface => ({ t with toSurface := c } : State)) hrestored

theorem RequestsOnly.internal (hs : RequestsOnly s) (n : Nat) : s.toSurface.Passes n (s.internal n).toSurface :=
  ((requestsOnly_iff_surface s).1 hs).internal n

/-- A step of an instruction where requests may arrive at any edge (60 R401, R452). -/
theorem RequestsOnly.step_instr {i : Instr} {left : List Byte} (hs : RequestsOnly s) (hh : s.halted = false)
    (hd : s.decoder = Decoder.empty) (hdec : decode s.upcoming = .ok (i, left)) :
    ∃ u t v, Fetched s.beginStep left u ∧ u.clock = s.clock.drop (busCycles u.trace.bus) ∧
      SameBut [.pc, .refreshR, .mode0Byte, .ops, .timing, .clock] (s.beginStep.seen (busCycles u.trace.bus)) u ∧
      exec i u = .next t ∧
      (let n := busCycles (t.trace.bus.drop u.trace.bus.length)
       t.clock = u.clock.drop n ∧ SameBut [.halted, .timing, .clock] { t with toSurface := (u.seen n).toSurface } t) ∧
      (let n := Config.extraT i (happens i u)
       v.clock = t.clock.drop n ∧ SameBut [.timing, .clock] (t.seen n) v) ∧
      step s = toOut v.interruptCheck := by
  have hs0 : RequestsOnly s.beginStep := hs
  obtain ⟨u, hfetch, hfetched, hframe⟩ := fetchDecode_of_decode s.beginStep hd hdec
  obtain ⟨ops, hbus⟩ := hfetched.bus
  have hpass := hs0.bus hbus
  obtain ⟨t, xops, hexec, hxops, ht, hxpass⟩ := RequestsOnly.exec_passes (hpass.onlyRequests hs0) i
  have hipass := ht.internal (Config.extraT i (happens i u))
  have huops : u.trace.bus = ops := hbus.1
  have htops : t.trace.bus.drop u.trace.bus.length = xops := by rw [hxops, List.drop_left]
  refine ⟨u, t, t.internal (Config.extraT i (happens i u)), hfetched, ?_, ?_, hexec, ?_,
    ⟨hipass.1, hipass.sameBut⟩, ?_⟩
  · rw [huops]
    exact hpass.1
  · rw [huops]
    exact hs0.fetched_sameBut hbus hframe
  · rw [htops]
    exact ⟨hxpass.1, hxpass.sameBut_halted⟩
  · obtain ⟨-, -, -, -, -, hk, -⟩ := hs
    rw [step_of_fetchDecode hk hs0.resetLine hh hfetch, runInstr, hexec]

/-! ## A halted step -/

theorem State.beginStep_seen (s : State) (n : Nat) :
    s.beginStep.toSurface.seen n = (s.toSurface.seen n).timedAs s.beginStep.toSurface :=
  Surface.timedAs_signals s.toSurface s.beginStep.toSurface (s.clock.take n).flatten

/-- A halted step where requests may arrive at any edge (70 R454). -/
theorem RequestsOnly.step_halted (hs : RequestsOnly s) (hh : s.halted = true) :
    ∃ u, step s = toOut u.interruptCheck ∧ u.clock = s.clock.drop 4 ∧ u.r = bumpR s.r ∧
      u.trace.bus = [.fetchOpcode s.pc (s.peek s.pc)] ∧ u.tInstr = 4 ∧
      SameBut [.refreshR, .ops, .timing, .clock] (s.seen 4) u := by
  have hs0 : RequestsOnly s.beginStep := hs
  have hpass := hs0.bus s.beginStep.haltedCycle_bus
  have hrestored : s.beginStep.haltedCycle.toSurface.timedAs (s.toSurface.seen 4) = s.toSurface.seen 4 := by
    calc _ = (s.beginStep.haltedCycle.toSurface.timedAs (s.beginStep.toSurface.seen 4)).timedAs (s.toSurface.seen 4) :=
          rfl
      _ = ((s.toSurface.seen 4).timedAs s.beginStep.toSurface).timedAs (s.toSurface.seen 4) := by
          rw [← s.beginStep_seen 4]
          exact congrArg (fun c : Surface => c.timedAs (s.toSurface.seen 4)) hpass.restored
      _ = _ := rfl
  obtain ⟨hclock, -, hinstr, -⟩ := hpass
  obtain ⟨-, -, -, -, -, hk, -⟩ := hs
  refine ⟨s.beginStep.haltedCycle, step_of_halted hk hs0.resetLine hh, hclock, rfl, rfl, hinstr, ?_⟩
  exact congrArg (fun c : Surface => ({ s with toSurface := c } : State)) hrestored

end Sys2Proof.Machine
end

section
/-! PROOFS. What a step spends, and the acknowledges during which requests may arrive. -/

namespace Sys2Proof.Machine

variable {s t u : State} {c d e : Surface}

/-! ## T-cycles of a step -/

/-- From `s` to `t` the bus operations since recorded and `n` internal cycles were paid, one T-cycle for each phase and
each cycle, in both counters. -/
def Spends (s : State) (n : Nat) (t : State) : Prop :=
  RequestsOnly t ∧ ∃ ops, t.trace.bus = s.trace.bus ++ ops ∧ t.tTotal = s.tTotal + BitVec.ofNat 64 (busCycles ops + n) ∧
    t.tInstr = s.tInstr + BitVec.ofNat 64 (busCycles ops + n)

theorem Spends.trans {m n : Nat} (h1 : Spends s m t) (h2 : Spends t n u) : Spends s (m + n) u := by
  obtain ⟨-, xs, hbus, htotal, hinstr⟩ := h1
  obtain ⟨hu, ys, hbus', htotal', hinstr'⟩ := h2
  have hsum : BitVec.ofNat 64 (busCycles (xs ++ ys) + (m + n)) =
      BitVec.ofNat 64 (busCycles xs + m) + BitVec.ofNat 64 (busCycles ys + n) := by
    rw [busCycles_append, Nat.add_add_add_comm, BitVec.ofNat_add]
  refine ⟨hu, xs ++ ys, by rw [hbus', hbus, List.append_assoc], ?_, ?_⟩
  · rw [hsum, htotal', htotal, BitVec.add_assoc]
  · rw [hsum, hinstr', hinstr, BitVec.add_assoc]

/-- What touches neither the record of bus operations nor the counters. -/
theorem Spends.keep {n : Nat} (h : Spends s n t) (hu : RequestsOnly u) (hb : u.trace.bus = t.trace.bus)
    (htotal : u.tTotal = t.tTotal) (hinstr : u.tInstr = t.tInstr) : Spends s n u := by
  obtain ⟨-, hspent⟩ := h
  refine ⟨hu, ?_⟩
  rwa [hb, htotal, hinstr]

theorem Bus.spends {ops : List BusOp} (h : Bus s t ops) (hs : RequestsOnly s) : Spends s 0 t := by
  have hpass := hs.bus h
  have ht : RequestsOnly t := hpass.onlyRequests hs
  obtain ⟨hops, -⟩ := h
  obtain ⟨-, htotal, hinstr, -⟩ := hpass
  exact ⟨ht, ops, hops, htotal, hinstr⟩

theorem Drives.spends (h : Drives s t) (hs : RequestsOnly s) : Spends s 0 t := by
  obtain ⟨ops, h⟩ := h
  exact h.spends hs

theorem RequestsOnly.internal_spends (hs : RequestsOnly s) (n : Nat) : Spends s n (s.internal n) := by
  have hpass := hs.internal n
  have ht : RequestsOnly (s.internal n) := hpass.onlyRequests hs
  obtain ⟨-, htotal, hinstr, -⟩ := hpass
  refine ⟨ht, [], (List.append_nil _).symm, ?_, ?_⟩
  · rw [htotal, busCycles, List.map_nil, List.sum_nil, Nat.zero_add]
  · rw [hinstr, busCycles, List.map_nil, List.sum_nil, Nat.zero_add]

/-- The surface before an NMI acknowledge (60 R405). -/
def State.beforeNmi (s : State) : State := { s with nmiLatch := false, halted := false }

/-- The surface before an INT acknowledge (60 R407). -/
def State.beforeInt (s : State) : State := { s with intLatch := false, halted := false }

theorem State.nmiAcknowledged_bus (s : State) : Bus s.beforeNmi s.nmiAcknowledged [.nmiAcknowledge s.pc] := ⟨rfl, rfl⟩

/-- The acknowledge of an INT is a bus operation, but that the vector byte is consumed (60 R410). -/
theorem State.acknowledged_bus (s : State) :
    Bus s.beforeInt { s.acknowledged with intVector := (s.beforeInt.cycle .intAcknowledge).intVector }
      [.intAcknowledge s.beforeInt.acknowledge.1] := ⟨rfl, rfl⟩

theorem RequestsOnly.enterNmi_spends (hs : RequestsOnly s) : Spends s 0 s.enterNmi := by
  have hs0 : RequestsOnly s.beforeNmi := hs
  have hack := s.nmiAcknowledged_bus.spends hs0
  have hentered := ((Drives.refl s.nmiAcknowledged).enterAt 0x0066#16).spends hack.1
  have hspent := hack.trans hentered
  rw [State.enterNmi_eq]
  exact hspent

theorem RequestsOnly.enterInt_spends (hs : RequestsOnly s) : Spends s 0 s.enterInt := by
  have hs0 : RequestsOnly s.beforeInt := hs
  have hbus := s.acknowledged_bus.spends hs0
  have hack : Spends s.beforeInt 0 s.acknowledged := hbus.keep hbus.1 rfl rfl rfl
  rcases s.enterInt_cases with ⟨v, ⟨-, e⟩ | ⟨-, e⟩ | ⟨-, e⟩⟩ <;> rw [e]
  · exact hack
  · exact hack.trans (((Drives.refl s.acknowledged).enterAt 0x0038#16).spends hack.1)
  · exact hack.trans (((Drives.refl s.acknowledged).enterMode2 v).spends hack.1)

theorem RequestsOnly.interruptCheck_spends (hs : RequestsOnly s) : Spends s 0 s.interruptCheck := by
  unfold State.interruptCheck
  split
  · exact hs.enterNmi_spends
  split
  · exact hs.enterInt_spends
  · exact (Drives.refl s).spends hs

/-- Settles O45: fetch, instruction, internal cycles and interrupt check each pay for what they do. -/
theorem stepCycleCount : Obligations.StepCycleCount := by
  intro s f t i q hh hd hf h
  have hs0 : RequestsOnly s.beginStep := q.requestsOnly
  have hfetch := (fetchDecode_drives hf).spends hs0
  obtain ⟨u, ops, hexec, hops, hu, -, htotal, hinstr, -⟩ := RequestsOnly.exec_passes hfetch.1 i
  have hspent : Spends f 0 u := ⟨hu, ops, hops, htotal, hinstr⟩
  have hinternal := hu.internal_spends (Config.extraT i (happens i f))
  obtain ⟨-, -, -, -, -, hk, -⟩ := q
  rw [step_of_fetchDecode hk hs0.resetLine hh hf, runInstr, hexec] at h
  obtain ⟨rfl, -⟩ := toOut_next h
  obtain ⟨-, all, hbus, htotal, hinstr⟩ :=
    ((hfetch.trans hspent).trans hinternal).trans hinternal.1.interruptCheck_spends
  simp only [Nat.zero_add, Nat.add_zero] at htotal hinstr
  replace hbus : (u.internal (Config.extraT i (happens i f))).interruptCheck.trace.bus = all := hbus
  replace hinstr : (u.internal (Config.extraT i (happens i f))).interruptCheck.tInstr =
      BitVec.ofNat 64 (busCycles all + Config.extraT i (happens i f)) := hinstr.trans (BitVec.zero_add _)
  rw [hbus]
  refine ⟨hinstr, ?_⟩
  rw [hinstr]
  exact htotal

/-! ## Acknowledges -/

/-- The byte of `int_vector` that signals leave depends on nothing else of the surface. -/
theorem Surface.signals_intVector_congr (h : c.intVector = d.intVector) (e : Edge) :
    (c.signals e).intVector = (d.signals e).intVector := by
  induction e generalizing c d with
  | nil => exact h
  | cons x e ih =>
    have hx : (c.signal x).intVector = (d.signal x).intVector := by
      cases x with
      | vector v => rfl
      | _ => exact h
    exact ih hx

/-- `c` with the timing, the clock, the halt condition and the requests of `d`. -/
def Surface.askedAs (c d : Surface) : Surface :=
  { c.timedAs d with
    halted := d.halted, nmiLatch := d.nmiLatch, intLatch := d.intLatch, intVector := d.intVector }

/-- Edges that bring requests only change the timing and the requests. -/
theorem Surface.Passes.askedAs {n : Nat} (h : c.Passes n d) (hc : c.OnlyRequests) : d.askedAs c = c := by
  rw [h.eq hc]
  rfl

/-- The requests after edges passed: the latches merge them, and the last vector byte stands (60 R401). -/
theorem Surface.Passes.requests {n : Nat} (h : c.Passes n d) (hc : c.OnlyRequests) :
    d.nmiLatch = (c.nmiLatch || decide (Signal.nmi ∈ (c.clock.take n).flatten)) ∧
      d.intLatch = (c.intLatch || decide (Signal.int ∈ (c.clock.take n).flatten)) ∧
      d.intVector = (c.seen n).intVector ∧ d.halted = c.halted := by
  have hd := h.eq hc
  exact ⟨(congrArg Surface.nmiLatch hd :), (congrArg Surface.intLatch hd :), (congrArg Surface.intVector hd :),
    (congrArg Surface.halted hd :)⟩

theorem mem_flatten_take_add (x : Signal) (es : List Edge) (m n : Nat) :
    decide (x ∈ (es.take (m + n)).flatten) =
      (decide (x ∈ (es.take m).flatten) || decide (x ∈ ((es.drop m).take n).flatten)) := by
  rw [List.take_add, List.flatten_append, ← Bool.decide_or]
  simp only [List.mem_append]

/-- An INT acknowledge: after `m` edges the vector byte is consumed, and `n` more follow (60 R410). -/
theorem Surface.Passes.acknowledged {m n : Nat} (h1 : c.Passes m d)
    (h2 : Surface.Passes { d with intVector := none } n e) (hc : c.OnlyRequests) :
    e.clock = c.clock.drop (m + n) ∧ e.tTotal = c.tTotal + BitVec.ofNat 64 (m + n) ∧
      e.nmiLatch = (c.nmiLatch || decide (Signal.nmi ∈ (c.clock.take (m + n)).flatten)) ∧
      e.intLatch = (c.intLatch || decide (Signal.int ∈ (c.clock.take (m + n)).flatten)) ∧
      e.intVector = (Surface.signals { c with intVector := none } ((c.clock.take (m + n)).drop m).flatten).intVector ∧
      e.halted = c.halted ∧ e.askedAs c = c := by
  have hd : Surface.OnlyRequests { d with intVector := none } := h1.onlyRequests hc
  obtain ⟨hnmi, hint, -, hhalted⟩ := h1.requests hc
  obtain ⟨hnmi', hint', hvec', hhalted'⟩ := h2.requests hd
  have hasked := h1.askedAs hc
  have hasked' := congrArg (fun x : Surface => x.askedAs c) (h2.askedAs hd)
  obtain ⟨hclock, htotal, -⟩ := h1
  obtain ⟨hclock', htotal', -⟩ := h2
  refine ⟨?_, ?_, ?_, ?_, ?_, hhalted'.trans hhalted, hasked'.trans hasked⟩
  · rw [hclock', hclock, List.drop_drop]
  · rw [htotal', htotal, BitVec.add_assoc, BitVec.ofNat_add]
  · rw [hnmi', hnmi, hclock, mem_flatten_take_add, Bool.or_assoc]
  · rw [hint', hint, hclock, mem_flatten_take_add, Bool.or_assoc]
  · rw [hvec', List.drop_take, Nat.add_sub_cancel_left, ← hclock]
    exact Surface.signals_intVector_congr (c := { d with intVector := none }) (d := { c with intVector := none }) rfl _

/-- The two bytes of PC pushed. -/
def State.pushedPc (s : State) : List BusOp :=
  [.writeMemory (s.sp - 1) (hiByte s.pc), .writeMemory (s.sp - 2) (loByte s.pc)]

/-- What an acknowledge may change but for memory, SP and PC. -/
def acknowledgeParts : List Part :=
  [.nmiLatch, .intLatch, .intVector, .halted, .refreshR, .iff1, .iff2, .ops, .timing, .clock]

/-- The signals that arrive with the edges from the `k`-th to the `n`-th. -/
def State.edges (s : State) (k n : Nat) : Edge := ((s.clock.take n).drop k).flatten

/-- What every acknowledge of `n` edges leaves. -/
def AckDuring (s : State) (n : Nat) (t : State) : Prop :=
  t.clock = s.clock.drop n ∧ t.tTotal = s.tTotal + BitVec.ofNat 64 n ∧
    (t.nmiLatch = true ↔ Signal.nmi ∈ s.edges 0 n) ∧ t.halted = false ∧ t.r = bumpR s.r ∧ t.iff1 = false

theorem eq_true_iff_of_eq_decide {b : Bool} {p : Prop} [Decidable p] (h : b = decide p) : b = true ↔ p := by
  rw [h, decide_eq_true_iff]

/-! ### NMI -/

/-- What an NMI acknowledge does where requests may arrive at any of its ten edges (60 R405). -/
theorem RequestsOnly.enterNmi_during (hs : RequestsOnly s) :
    let t := s.enterNmi
    AckDuring s 10 t ∧ t.pc = 0x0066#16 ∧ t.sp = s.sp - 2 ∧ t.iff2 = s.iff1 ∧
      (t.intLatch = true ↔ s.intLatch = true ∨ Signal.int ∈ s.edges 0 10) ∧ t.intVector = (s.seen 10).intVector ∧
      StoresWord s t (s.sp - 2) s.pc ∧ Ops s t (.nmiAcknowledge s.pc :: s.pushedPc) ∧
      SameBut (.pc :: .sp :: .mem :: acknowledgeParts) s t := by
  have hs0 : s.beforeNmi.toSurface.OnlyRequests := hs
  have hpass : s.beforeNmi.toSurface.Passes 10 s.enterNmi.toSurface :=
    hs0.operations (.nmiAcknowledge s.pc :: s.pushedPc)
  obtain ⟨hnmi, hint, hvec, hhalted⟩ := hpass.requests hs0
  have hasked := congrArg (fun x : Surface => x.askedAs s.toSurface) (hpass.askedAs hs0)
  replace hasked : s.enterNmi.toSurface.askedAs s.toSurface = s.toSurface := hasked
  have hvec' : (s.beforeNmi.toSurface.seen 10).intVector = (s.seen 10).intVector :=
    Surface.signals_intVector_congr (c := s.beforeNmi.toSurface) (d := s.toSurface) rfl _
  obtain ⟨hclock, htotal, -⟩ := hpass
  refine ⟨⟨hclock, htotal, eq_true_iff_of_eq_decide hnmi, hhalted, rfl, rfl⟩, rfl, rfl, rfl, ?_, hvec.trans hvec',
    ?_, ?_, ?_⟩
  · rw [hint, Bool.or_eq_true, decide_eq_true_iff]
    rfl
  · exact ((s.nmiAcknowledged.push16_stores s.pc).from_eq rfl rfl).of_eq rfl rfl
  · exact (s.nmiAcknowledged.push16_bus s.pc).trans (List.append_assoc ..)
  · exact congrArg (fun c : Surface => ({ s with toSurface := c } : State)) hasked

/-! ### INT -/

/-- The byte of an INT acknowledge: the last placed in `int_vector` by the end of its four phases (60 R410). -/
def State.ackVector (s : State) : Byte := (s.seen 4).intVector.getD s.cfg.intNoVector

theorem RequestsOnly.acknowledge_passes (hs : RequestsOnly s) :
    s.beforeInt.toSurface.Passes 4 (s.beforeInt.toSurface.cycle .intAcknowledge) := by
  have hs0 : s.beforeInt.toSurface.OnlyRequests := hs
  exact hs0.cycle .intAcknowledge

theorem RequestsOnly.acknowledge_val (hs : RequestsOnly s) : s.beforeInt.acknowledge.1 = s.ackVector := by
  have hs0 : s.beforeInt.toSurface.OnlyRequests := hs
  obtain ⟨-, -, hvec, -⟩ := hs.acknowledge_passes.requests hs0
  have hvec' : (s.beforeInt.toSurface.seen 4).intVector = (s.seen 4).intVector :=
    Surface.signals_intVector_congr (c := s.beforeInt.toSurface) (d := s.toSurface) rfl _
  exact congrArg (fun v : Option Byte => v.getD s.cfg.intNoVector) (hvec.trans hvec')

/-- What every INT acknowledge of `n` edges leaves. -/
def AckAccepted (s : State) (n : Nat) (t : State) : Prop :=
  AckDuring s n t ∧ t.iff2 = false ∧ (t.intLatch = true ↔ Signal.int ∈ s.edges 0 n) ∧
    t.intVector = ({ s with intVector := none }.signals (s.edges 4 n)).intVector

/-- The acknowledge of an INT and the bus operations `ops` after it, whatever they are for. -/
theorem RequestsOnly.acknowledged_operations (hs : RequestsOnly s) (hn : s.nmiLatch = false) (ops : List BusOp)
    (ht : t.toSurface = s.acknowledged.toSurface.operations ops) (hr : t.r = bumpR s.r) (hiff1 : t.iff1 = false)
    (hiff2 : t.iff2 = false) :
    AckAccepted s (4 + busCycles ops) t ∧ t.toSurface.askedAs s.toSurface = s.toSurface := by
  have hs0 : s.beforeInt.toSurface.OnlyRequests := hs
  have hpass := hs.acknowledge_passes
  have hack : Surface.OnlyRequests { s.beforeInt.toSurface.cycle .intAcknowledge with intVector := none } :=
    hpass.onlyRequests hs0
  have hrelease : Surface.Passes { s.beforeInt.toSurface.cycle .intAcknowledge with intVector := none } 0
      s.acknowledged.toSurface := .publish _ {}
  have hops := hrelease.trans ((hrelease.onlyRequests hack).operations ops)
  rw [← ht, Nat.zero_add] at hops
  obtain ⟨hclock, htotal, hnmi, hint, hvec, hhalted, hasked⟩ := hpass.acknowledged hops hs0
  replace hnmi : t.nmiLatch = (s.nmiLatch || decide (Signal.nmi ∈ s.edges 0 (4 + busCycles ops))) := hnmi
  rw [hn, Bool.false_or] at hnmi
  have hvec' := Surface.signals_intVector_congr (c := { s.beforeInt.toSurface with intVector := none })
    (d := { s.toSurface with intVector := none }) rfl (s.edges 4 (4 + busCycles ops))
  have hasked' := congrArg (fun x : Surface => x.askedAs s.toSurface) hasked
  exact ⟨⟨⟨hclock, htotal, eq_true_iff_of_eq_decide hnmi, hhalted, hr, hiff1⟩, hiff2,
    eq_true_iff_of_eq_decide hint, hvec.trans hvec'⟩, hasked'⟩

theorem State.enterInt_of_mode0 (him : s.im = .mode0) :
    s.enterInt = { s.acknowledged with mode0Byte := some s.beforeInt.acknowledge.1 } := by
  cases s
  dsimp only at him
  subst him
  rfl

theorem State.enterInt_of_mode1 (him : s.im = .mode1) : s.enterInt = s.acknowledged.enterAt 0x0038#16 := by
  cases s
  dsimp only at him
  subst him
  rfl

theorem State.enterInt_of_mode2 (him : s.im = .mode2) :
    s.enterInt = s.acknowledged.enterMode2 s.beforeInt.acknowledge.1 := by
  cases s
  dsimp only at him
  subst him
  rfl

theorem State.acknowledged_trace (s : State) :
    s.acknowledged.trace.bus = s.trace.bus ++ [BusOp.intAcknowledge s.beforeInt.acknowledge.1] := rfl

/-- The memory of an accepted INT that jumps: PC is pushed. -/
theorem State.acknowledged_stores (s : State) : StoresWord s (s.acknowledged.push16 s.pc) (s.sp - 2) s.pc :=
  (s.acknowledged.push16_stores s.pc).from_eq rfl rfl

/-- Mode 0 takes four edges: the byte waits for the decoder (60 R408, R412). -/
theorem RequestsOnly.enterInt_mode0_accepted (hs : RequestsOnly s) (hn : s.nmiLatch = false) (him : s.im = .mode0) :
    let t := s.enterInt
    AckAccepted s 4 t ∧ t.mode0Byte = some s.ackVector ∧ Ops s t [.intAcknowledge s.ackVector] ∧
      SameBut (.mode0Byte :: acknowledgeParts) s t := by
  dsimp only
  rw [State.enterInt_of_mode0 him, ← hs.acknowledge_val]
  obtain ⟨hacc, hasked⟩ := hs.acknowledged_operations hn [] (t := s.acknowledged) rfl rfl rfl rfl
  exact ⟨hacc, rfl, rfl, congrArg (fun c : Surface => ({ s with toSurface := c } : State)) hasked⟩

/-- Mode 1 takes ten edges: PC is pushed (60 R409). -/
theorem RequestsOnly.enterInt_mode1_accepted (hs : RequestsOnly s) (hn : s.nmiLatch = false) (him : s.im = .mode1) :
    let t := s.enterInt
    AckAccepted s 10 t ∧ t.pc = 0x0038#16 ∧ t.sp = s.sp - 2 ∧ StoresWord s t (s.sp - 2) s.pc ∧
      Ops s t (.intAcknowledge s.ackVector :: s.pushedPc) ∧ SameBut (.pc :: .sp :: .mem :: acknowledgeParts) s t := by
  dsimp only
  rw [State.enterInt_of_mode1 him, ← hs.acknowledge_val]
  obtain ⟨hacc, hasked⟩ :=
    hs.acknowledged_operations hn s.pushedPc (t := s.acknowledged.enterAt 0x0038#16) rfl rfl rfl rfl
  refine ⟨hacc, rfl, rfl, s.acknowledged_stores.of_eq rfl rfl, ?_,
    congrArg (fun c : Surface => ({ s with toSurface := c } : State)) hasked⟩
  exact (s.acknowledged.push16_bus s.pc).trans (List.append_assoc ..)

/-- The two reads of the mode-2 table. -/
def State.tableReads (s : State) (table : Word) : List BusOp :=
  [.readMemory table (s.peek table), .readMemory (table + 1) (s.peek (table + 1))]

/-- Mode 2 takes sixteen edges: PC is pushed, then the target is read from the table (60 R411). -/
theorem RequestsOnly.enterInt_mode2_accepted (hs : RequestsOnly s) (hn : s.nmiLatch = false) (him : s.im = .mode2) :
    let t := s.enterInt
    let table := joinBytes s.i s.ackVector
    AckAccepted s 16 t ∧ t.pc = t.peek16 table ∧ t.sp = s.sp - 2 ∧ StoresWord s t (s.sp - 2) s.pc ∧
      Ops s t (.intAcknowledge s.ackVector :: s.pushedPc ++ t.tableReads table) ∧
      SameBut (.pc :: .sp :: .mem :: acknowledgeParts) s t := by
  dsimp only
  rw [State.enterInt_of_mode2 him, ← hs.acknowledge_val]
  obtain ⟨hacc, hasked⟩ := hs.acknowledged_operations hn
    (s.pushedPc ++ (s.acknowledged.push16 s.pc).tableReads (joinBytes s.i s.beforeInt.acknowledge.1))
    (t := s.acknowledged.enterMode2 s.beforeInt.acknowledge.1) rfl rfl rfl rfl
  refine ⟨hacc, rfl, rfl, s.acknowledged_stores.of_eq rfl rfl, ?_,
    congrArg (fun c : Surface => ({ s with toSurface := c } : State)) hasked⟩
  have hread := (s.acknowledged.push16 s.pc).memRead16_bus (joinBytes s.i s.beforeInt.acknowledge.1)
  rw [State.push16_bus, s.acknowledged_trace, List.append_assoc, List.append_assoc] at hread
  exact hread

/-- Settles O60: edges that bring requests only are passed one for each T-cycle (`Surface.Passes`), through the bus
operations of the step and of the acknowledges and through the internal cycles. -/
theorem requestsDuringAStep : Obligations.RequestsDuringAStep := by
  intro s hs
  refine ⟨fun i left hh hd hdec => hs.step_instr hh hd hdec, fun hh => hs.step_halted hh, fun hn => ?_,
    fun hn hi hiff => ?_⟩
  · exact ⟨s.enterNmi, by simp [State.interruptCheck, hn], hs.enterNmi_during⟩
  · refine ⟨s.enterInt, by simp [State.interruptCheck, hn, hi, hiff], ?_⟩
    cases him : s.im with
    | mode0 => exact hs.enterInt_mode0_accepted hn him
    | mode1 => exact hs.enterInt_mode1_accepted hn him
    | mode2 => exact hs.enterInt_mode2_accepted hn him

end Sys2Proof.Machine
end

section
/-! PROOFS. What decoding is in two stages: the bytes that choose an entry of the decode tables, then the entry's operand
bytes (spec 30 R123 to R125, R128 to R137). -/

namespace Sys2Proof

open Sys2Proof.Machine (loByte_joinBytes)

/-! ## The operand bytes of an entry -/

/-- The immediate bytes of a value under construction, `n` of them, low byte first (30 R124). -/
def Decoded.readImm (p : Pfx) (v : Decoded) (n : Fin 3) (bs : List Byte) : Except DecodeError (Instr × List Byte) :=
  match n, bs with
  | 0, bs => .ok (v.toInstr p, bs)
  | 1, lo :: bs => .ok ({ v with imm := joinBytes (hiByte v.imm) lo }.toInstr p, bs)
  | 2, lo :: hi :: bs => .ok ({ v with imm := joinBytes hi lo }.toInstr p, bs)
  | _, _ => .error .needMoreBytes

/-- The operand bytes of an entry: its displacement, then its immediate (30 R124, R125). -/
def Entry.readOperands (p : Pfx) (e : Entry) (bs : List Byte) : Except DecodeError (Instr × List Byte) :=
  match e.needDisp, bs with
  | false, bs => (e.start 0).readImm p e.immBytes bs
  | true, d :: bs => (e.start d).readImm p e.immBytes bs
  | true, [] => .error .needMoreBytes

/-- How many operand bytes an entry takes. -/
def Entry.operandCount (e : Entry) : Nat := e.needDisp.toNat + e.immBytes

/-- What decoding goes on to after a feed. -/
def decodeAfter (r : Decoder × Option Instr) (bs : List Byte) : Except DecodeError (Instr × List Byte) :=
  match r with
  | (_, some i) => .ok (i, bs)
  | (d, none) => decodeFrom d bs

theorem decodeFrom_cons (d : Decoder) (b : Byte) (bs : List Byte) :
    decodeFrom d (b :: bs) = decodeAfter (d.feed b) bs := rfl

/-- The decoder waiting for the immediate bytes of `v`. -/
theorem decodeFrom_imm (p : Pfx) (v : Decoded) {n : Fin 3} (hn : n ≠ 0) (bs : List Byte) :
    decodeFrom { Decoder.empty with pfx := p, inflight := some v, immRemaining := n } bs = v.readImm p n bs := by
  match n, bs with
  | 0, _ => exact absurd rfl hn
  | 1, [] | 2, [] => exact Decoder.InOperands.decodeFrom_nil ⟨by simp, rfl⟩
  | 1, lo :: bs => rfl
  | 2, [lo] => exact Decoder.InOperands.decodeFrom_nil ⟨by simp, rfl⟩
  | 2, lo :: hi :: bs =>
    show Except.ok (Decoded.toInstr p { v with imm := joinBytes hi (loByte (joinBytes (hiByte v.imm) lo)) }, bs) = _
    rw [loByte_joinBytes]
    rfl

/-- `Cache(e)` (30 R123) and the bytes after it, where no displacement of DDCB or FDCB is under way. -/
theorem decodeAfter_cache {p : Pfx} (hp : ¬ (p = .DDCB ∨ p = .FDCB)) (e : Entry) (bs : List Byte) :
    decodeAfter (Decoder.cache { Decoder.empty with pfx := p } e) bs = e.readOperands p bs := by
  unfold Decoder.cache Entry.readOperands
  cases hd : e.needDisp with
  | false =>
    by_cases hn : e.immBytes = 0
    · simp only [hn, and_self, if_true]
      rfl
    · simp only [hn, and_false, if_false]
      exact decodeFrom_imm p _ hn bs
  | true =>
    rw [if_neg (by simp)]
    cases bs with
    | nil => exact Decoder.InOperands.decodeFrom_nil ⟨by simp, rfl⟩
    | cons d bs =>
      show decodeAfter (Decoder.feed _ d) bs = (e.start d).readImm p e.immBytes bs
      have hfeed : Decoder.feed { Decoder.empty with
            pfx := p, inflight := some (e.start 0), awaitDisp := true, immRemaining := e.immBytes } d =
          if e.immBytes = 0 then finalize p (e.start d)
          else ({ Decoder.empty with pfx := p, inflight := some (e.start d), immRemaining := e.immBytes }, none) := by
        simp only [Decoder.feed, Decoder.empty, hp, if_false]
        rfl
      refine (congrArg (decodeAfter · bs) hfeed).trans ?_
      by_cases hn : e.immBytes = 0
      · rw [if_pos hn, hn]
        rfl
      · rw [if_neg hn]
        exact decodeFrom_imm p _ hn bs

/-! ## The prefix -/

/-- Of the prefixes only ED has a say in what a finished value stands for: 0x22 and 0x2A against ED 63 and ED 6B. -/
theorem Decoded.toInstr_of_ne_ED {p : Pfx} (hp : p ≠ .ED) (v : Decoded) : v.toInstr p = v.toInstr .none := by
  have hld : ldInstr p v = ldInstr .none v := by simp [ldInstr, hp]
  unfold Decoded.toInstr
  rw [hld]

theorem Decoded.readImm_of_ne_ED {p : Pfx} (hp : p ≠ .ED) (v : Decoded) (n : Fin 3) (bs : List Byte) :
    v.readImm p n bs = v.readImm .none n bs := by
  unfold Decoded.readImm
  split <;> simp only [Decoded.toInstr_of_ne_ED hp]

theorem Entry.readOperands_of_ne_ED {p : Pfx} (hp : p ≠ .ED) (e : Entry) (bs : List Byte) :
    e.readOperands p bs = e.readOperands .none bs := by
  unfold Entry.readOperands
  split <;> simp only [Decoded.readImm_of_ne_ED hp]

/-! ## The bytes that choose an entry -/

/-- The prefix of an index register (30 R102). -/
def Idx.pfx : Idx → Pfx
  | .ix => .DD
  | .iy => .FD

/-- The entry of a DDCB or FDCB opcode: RES, SET and the rotates have a register-copy form, BIT has none (30 R137). -/
def xcbEntry (x : Idx) (b : Byte) : Entry :=
  if fieldX b = 1 ∨ fieldZ b = 6 then { cbDetails b with dest := x.operand, addrDest := true }
  else
    { cbDetails b with
      mnemonic := (cbDetails b).mnemonic.alt, dest := (tabR (fieldZ b)).1, addrDest := false
      source := x.operand, addrSource := true }

theorem decode_plain {b : Byte} (hb : prefixOf b = none) (bs : List Byte) :
    decode (b :: bs) = (plainDetails b).readOperands .none bs := by
  rw [decode, decodeFrom_cons, Decoder.feed_empty, hb]
  exact decodeAfter_cache (by simp) _ bs

theorem decode_CB (b : Byte) (bs : List Byte) : decode (0xCB#8 :: b :: bs) = (cbDetails b).readOperands .none bs :=
  (decodeAfter_cache (p := .CB) (by simp) _ bs).trans (Entry.readOperands_of_ne_ED (by simp) _ bs)

theorem decode_ED (b : Byte) (bs : List Byte) : decode (0xED#8 :: b :: bs) = (edDetails b).readOperands .ED bs :=
  decodeAfter_cache (p := .ED) (by simp) _ bs

/-- After DD or FD the next byte goes to `DecodeDDFD` (30 R128). -/
theorem decode_X (x : Idx) (b : Byte) (bs : List Byte) :
    decode (x.prefixByte :: b :: bs) =
      decodeAfter (Decoder.decodeDDFD { Decoder.empty with pfx := x.pfx } x b) bs := by
  cases x <;> rfl

/-- A DD, ED or FD byte after DD or FD (30 R129). -/
theorem decode_X_prefix (x : Idx) {b : Byte} (hb : b = 0xDD#8 ∨ b = 0xED#8 ∨ b = 0xFD#8) (bs : List Byte) :
    decode (x.prefixByte :: b :: bs) = .ok (.noni, bs) := by
  rw [decode_X]
  obtain rfl | rfl | rfl := hb <;> cases x <;> rfl

/-- The rewritten entry of an opcode after DD or FD (30 R128). -/
theorem decode_X_plain (x : Idx) {b : Byte} (hb : prefixOf b = none) (bs : List Byte) :
    decode (x.prefixByte :: b :: bs) = (rewriteEntry (plainDetails b) x).readOperands .none bs := by
  have hne : b ≠ 0xCB#8 ∧ ¬ (b = 0xDD#8 ∨ b = 0xED#8 ∨ b = 0xFD#8) := by
    refine ⟨?_, ?_⟩
    · rintro rfl
      cases hb
    · rintro (rfl | rfl | rfl) <;> cases hb
  rw [decode_X, Decoder.decodeDDFD, if_neg hne.1, if_neg hne.2]
  refine (decodeAfter_cache ?_ _ bs).trans (Entry.readOperands_of_ne_ED ?_ _ bs) <;> cases x <;> simp [Idx.pfx]

/-- DD CB d op and FD CB d op: the displacement stands before the opcode (30 R136, R137). -/
theorem decode_XCB (x : Idx) (d b : Byte) (bs : List Byte) :
    decode (x.prefixByte :: 0xCB#8 :: d :: b :: bs) = .ok (((xcbEntry x b).start d).toInstr .none, bs) := by
  cases x with
  | ix => exact congrArg (fun i => Except.ok (i, bs)) (Decoded.toInstr_of_ne_ED (p := .DDCB) (by simp) _)
  | iy => exact congrArg (fun i => Except.ok (i, bs)) (Decoded.toInstr_of_ne_ED (p := .FDCB) (by simp) _)

end Sys2Proof
end

section
/-! PROOFS. Decoding is total: every entry of the tables takes at most two operand bytes, and stands for a well-formed
instruction at every value of them (spec 30 R101, R138). -/

namespace Sys2Proof

open Sys2Proof.Machine (isPrefixRow)

/-! ## Entries that stand for well-formed instructions -/

/-- The sides of an LD that a row of the opcode table has (`Instr.wf`). -/
def Side.ldWf : Side → Side → Bool
  | .reg r, .half _ _ => r.notHL
  | .atIdx _, .reg r => r.notHL
  | .reg .a, .atPair rr => rr.isBcDe
  | .atPair rr, .reg .a => rr.isBcDe || rr == .hl
  | _, _ => true

/-- What makes a value stand for a well-formed instruction. Only LD, JR and RST have operands that no row admits. -/
def Decoded.wf (v : Decoded) : Bool :=
  match v.mnemonic with
  | .LD => v.destSide.ldWf v.sourceSide
  | .JR => v.cond.all Cond.isJr
  | .RST => isRstTarget v.imm8
  | _ => true

theorem ldInstr_wf (p : Pfx) {v : Decoded} (h : v.destSide.ldWf v.sourceSide = true) : (ldInstr p v).wf = true := by
  unfold ldInstr
  repeat' split
  all_goals simp_all [Side.ldWf, Instr.wf]

theorem Decoded.toInstr_wf (p : Pfx) {v : Decoded} (h : v.wf = true) : (v.toInstr p).wf = true := by
  unfold Decoded.toInstr
  unfold Decoded.wf at h
  cases hm : v.mnemonic <;>
    simp only [hm, pushInstr, popInstr, exInstr, jpInstr, inInstr, outInstr, addInstr, carryInstr, aluInstr,
      incDecInstr, cbInstr, altInstr] at h ⊢
  case LD => exact ldInstr_wf p h
  case JR =>
    cases hc : v.cond with
    | none => rfl
    | some cc => rwa [hc] at h
  case RST => exact h
  all_goals
    repeat' split
    all_goals rfl

/-- What makes an entry stand for a well-formed instruction at every value of its operand bytes. -/
def Entry.wf (e : Entry) : Bool := (e.start 0).wf && (e.mnemonic != .RST || e.immBytes == 0)

/-- The value of a well-formed entry, whatever its operand bytes. -/
theorem Entry.start_wf {e : Entry} (he : e.wf = true) (disp : Byte) {imm : Word} (himm : e.immBytes = 0 → imm = e.imm) :
    { e.start disp with imm := imm }.wf = true := by
  obtain ⟨hwf, hrst⟩ := Bool.and_eq_true_iff.mp he
  unfold Decoded.wf at hwf ⊢
  cases hm : e.mnemonic <;> simp only [Entry.start, hm] at hwf hrst ⊢
  case RST =>
    have h0 : e.immBytes = 0 := by simpa using hrst
    rw [himm h0]
    exact hwf
  all_goals exact hwf

/-! ## Operand bytes -/

theorem Decoded.readImm_ok (p : Pfx) (v : Decoded) (n : Fin 3) {bs : List Byte} (hn : n.val ≤ bs.length) :
    ∃ imm, (n = 0 → imm = v.imm) ∧ v.readImm p n bs = .ok ({ v with imm := imm }.toInstr p, bs.drop n) := by
  match n, bs with
  | 0, bs => exact ⟨v.imm, fun _ => rfl, rfl⟩
  | 1, lo :: bs => exact ⟨_, nofun, rfl⟩
  | 2, lo :: hi :: bs => exact ⟨_, nofun, rfl⟩

theorem Entry.readOperands_ok (p : Pfx) {e : Entry} (he : e.wf = true) {bs : List Byte}
    (hn : e.operandCount ≤ bs.length) :
    ∃ i, e.readOperands p bs = .ok (i, bs.drop e.operandCount) ∧ i.wf = true ∧ isPrefixRow i = false := by
  suffices h : ∃ disp imm, (e.immBytes = 0 → imm = e.imm) ∧
      e.readOperands p bs = .ok ({ e.start disp with imm := imm }.toInstr p, bs.drop e.operandCount) by
    obtain ⟨disp, imm, himm, h⟩ := h
    exact ⟨_, h, Decoded.toInstr_wf p (Entry.start_wf he disp himm), Decoded.toInstr_not_prefix p _⟩
  unfold Entry.operandCount at hn ⊢
  unfold Entry.readOperands
  match hd : e.needDisp, bs with
  | false, bs =>
    rw [hd, Bool.toNat_false, Nat.zero_add] at hn
    rw [Bool.toNat_false, Nat.zero_add]
    exact ⟨0, (e.start 0).readImm_ok p e.immBytes hn⟩
  | true, d :: bs =>
    rw [hd, Bool.toNat_true, Nat.add_comm] at hn
    rw [Bool.toNat_true, Nat.add_comm]
    exact ⟨d, (e.start d).readImm_ok p e.immBytes (Nat.le_of_succ_le_succ hn)⟩
  | true, [] => simp [hd] at hn

/-! ## The decode tables -/

/-- An entry whose operand bytes and two opcode bytes are at most four bytes (30 R101). -/
def Entry.fits (e : Entry) : Bool := e.wf && decide (e.operandCount ≤ 2)

theorem plainDetails_fits : ∀ b, (plainDetails b).fits = true := by decide
theorem cbDetails_fits : ∀ b, (cbDetails b).fits = true := by decide
theorem edDetails_fits : ∀ b, (edDetails b).fits = true := by decide
theorem rewriteEntry_fits (x : Idx) : ∀ b, (rewriteEntry (plainDetails b) x).fits = true := by cases x <;> decide
theorem xcbEntry_fits (x : Idx) : ∀ b, (xcbEntry x b).fits = true := by cases x <;> decide

/-! ## Any four bytes -/

/-- The bytes begin with a well-formed instruction of 1 to 4 bytes. -/
def BeginsInstr (bs : List Byte) : Prop :=
  ∃ i n, 1 ≤ n ∧ n ≤ 4 ∧ decode bs = .ok (i, bs.drop n) ∧ i.wf = true ∧ isPrefixRow i = false

/-- Opcode bytes `op` that choose the entry `e`, before the bytes `bs`. -/
theorem beginsInstr_of_entry {op bs : List Byte} {e : Entry} {p : Pfx} (he : e.fits = true)
    (hdec : decode (op ++ bs) = e.readOperands p bs) (h1 : 1 ≤ op.length) (h2 : op.length ≤ 2) (hbs : 2 ≤ bs.length) :
    BeginsInstr (op ++ bs) := by
  obtain ⟨hwf, hn⟩ := Bool.and_eq_true_iff.mp he
  have hcount : e.operandCount ≤ 2 := of_decide_eq_true hn
  obtain ⟨i, hread, hi⟩ := e.readOperands_ok p hwf (hcount.trans hbs)
  refine ⟨i, op.length + e.operandCount, by omega, by omega, ?_, hi⟩
  rw [hdec, hread, ← List.drop_drop, List.drop_left]

theorem prefixOf_ne_none_iff : ∀ b : Byte, prefixOf b ≠ none ↔ b ∈ [0xCB#8, 0xDD#8, 0xED#8, 0xFD#8] := by decide

theorem beginsInstr_XCB (x : Idx) (d b : Byte) (bs : List Byte) :
    BeginsInstr (x.prefixByte :: 0xCB#8 :: d :: b :: bs) := by
  have hwf : (xcbEntry x b).wf = true := (Bool.and_eq_true_iff.mp (xcbEntry_fits x b)).1
  exact ⟨_, 4, by omega, by omega, decode_XCB x d b bs, Decoded.toInstr_wf _ (Entry.start_wf hwf d fun _ => rfl),
    Decoded.toInstr_not_prefix _ _⟩

theorem beginsInstr_X (x : Idx) (b1 b2 b3 : Byte) (rest : List Byte) :
    BeginsInstr (x.prefixByte :: b1 :: b2 :: b3 :: rest) := by
  by_cases hb : prefixOf b1 = none
  · exact beginsInstr_of_entry (op := [x.prefixByte, b1]) (rewriteEntry_fits x b1) (decode_X_plain x hb _)
      (by simp) (by simp) (by simp)
  · obtain rfl | hx : b1 = 0xCB#8 ∨ b1 = 0xDD#8 ∨ b1 = 0xED#8 ∨ b1 = 0xFD#8 := by
      simpa using (prefixOf_ne_none_iff b1).mp hb
    · exact beginsInstr_XCB x b2 b3 rest
    · exact ⟨.noni, 2, by omega, by omega, decode_X_prefix x hx _, rfl, rfl⟩

/-- Settles O39: by what the first byte is, opcode or prefix (30 R122), and after DD or FD by what the second is. -/
theorem decodeIsTotal : Obligations.DecodeIsTotal := by
  intro b0 b1 b2 b3 rest
  show BeginsInstr _
  by_cases hb : prefixOf b0 = none
  · exact beginsInstr_of_entry (op := [b0]) (plainDetails_fits b0) (decode_plain hb _) (by simp) (by simp) (by simp)
  · obtain rfl | rfl | rfl | rfl : b0 = 0xCB#8 ∨ b0 = 0xDD#8 ∨ b0 = 0xED#8 ∨ b0 = 0xFD#8 := by
      simpa using (prefixOf_ne_none_iff b0).mp hb
    · exact beginsInstr_of_entry (op := [0xCB#8, b1]) (cbDetails_fits b1) (decode_CB b1 _) (by simp) (by simp) (by simp)
    · exact beginsInstr_X .ix b1 b2 b3 rest
    · exact beginsInstr_of_entry (op := [0xED#8, b1]) (edDetails_fits b1) (decode_ED b1 _) (by simp) (by simp) (by simp)
    · exact beginsInstr_X .iy b1 b2 b3 rest

end Sys2Proof
end

section
/-! PROOFS. Every well-formed instruction is read back from its own words (spec 30 R102, R113, R118, R119, R126, R136, R137):
the format of an instruction gives the bytes that choose its entry, and the entry reads the operands. -/

namespace Sys2Proof

open Sys2Proof.Machine (Decodes isPrefixRow joinBytes_hi_lo loByte_joinBytes)

/-! ## Operands -/

/-- With the operand bytes `ops` the entry stands for `i`, whatever follows. -/
def Entry.Reads (p : Pfx) (e : Entry) (ops : List Byte) (i : Instr) : Prop :=
  ∀ rest, e.readOperands p (ops ++ rest) = .ok (i, rest)

section
variable {p : Pfx} {e : Entry}

theorem Entry.Reads.none {i : Instr} (hd : e.needDisp = false) (hn : e.immBytes = 0) (hi : (e.start 0).toInstr p = i) :
    e.Reads p [] i := by
  intro rest
  unfold Entry.readOperands
  rw [hd, hn, ← hi]
  rfl

theorem Entry.Reads.disp {f : Byte → Instr} (hd : e.needDisp = true) (hn : e.immBytes = 0)
    (hi : ∀ d, (e.start d).toInstr p = f d) (d : Byte) : e.Reads p [d] (f d) := by
  intro rest
  unfold Entry.readOperands
  rw [hd, hn, ← hi]
  rfl

theorem Entry.Reads.imm8 {f : Byte → Instr} (hd : e.needDisp = false) (hn : e.immBytes = 1)
    (hi : ∀ v, { e.start 0 with imm := v }.toInstr p = f (loByte v)) (n : Byte) : e.Reads p [n] (f n) := by
  intro rest
  unfold Entry.readOperands
  rw [hd, hn, ← loByte_joinBytes (hiByte e.imm) n, ← hi, loByte_joinBytes]
  rfl

theorem Entry.Reads.dispImm8 {f : Byte → Byte → Instr} (hd : e.needDisp = true) (hn : e.immBytes = 1)
    (hi : ∀ d v, { e.start d with imm := v }.toInstr p = f d (loByte v)) (d n : Byte) : e.Reads p [d, n] (f d n) := by
  intro rest
  unfold Entry.readOperands
  rw [hd, hn, ← loByte_joinBytes (hiByte e.imm) n, ← hi, loByte_joinBytes]
  rfl

theorem Entry.Reads.imm16 {f : Word → Instr} (hd : e.needDisp = false) (hn : e.immBytes = 2)
    (hi : ∀ v, { e.start 0 with imm := v }.toInstr p = f v) (nn : Word) : e.Reads p (immBytesOf nn) (f nn) := by
  intro rest
  unfold Entry.readOperands
  rw [hd, hn, ← hi]
  show Except.ok (Decoded.toInstr p { e.start 0 with imm := joinBytes (hiByte nn) (loByte nn) }, rest) = _
  rw [joinBytes_hi_lo]

end

/-! ## Formats, 30 R102 -/

section
variable {ops : List Byte} {i : Instr}

theorem decodes_plain {b : Byte} (hb : prefixOf b = none) (h : (plainDetails b).Reads .none ops i) :
    Decodes (b :: ops) i :=
  fun rest => (decode_plain hb (ops ++ rest)).trans (h rest)

theorem decodes_encED {b : Byte} (h : (edDetails b).Reads .ED ops i) : Decodes (encED b ++ ops) i :=
  fun rest => (decode_ED b (ops ++ rest)).trans (h rest)

theorem decodes_encX {x : Idx} {b : Byte} (hb : prefixOf b = none)
    (h : (rewriteEntry (plainDetails b) x).Reads .none ops i) : Decodes (encX x b ++ ops) i :=
  fun rest => (decode_X_plain x hb (ops ++ rest)).trans (h rest)

/-- No CB operation has operand bytes (30 R119). -/
theorem cbDetails_reads (b : Byte) : (cbDetails b).Reads .none [] (((cbDetails b).start 0).toInstr .none) := by
  refine .none ?_ ?_ rfl <;> (unfold cbDetails; split <;> rfl)

theorem decodes_encCB {x y z : Nat} (h : ((cbDetails (opXYZ x y z)).start 0).toInstr .none = i) :
    Decodes (encCB x y z) i :=
  fun rest => h ▸ (decode_CB _ rest).trans (cbDetails_reads _ rest)

theorem decodes_encXCB {j : Idx} {d : Byte} {x y z : Nat} (h : ((xcbEntry j (opXYZ x y z)).start d).toInstr .none = i) :
    Decodes (encXCB j d x y z) i :=
  fun rest => h ▸ decode_XCB j d _ rest

/-! ## Bit numbers, IM, RST -/

/-- The y field of BIT, RES and SET is their immediate, and nothing else of the entry depends on it (30 R119). -/
theorem cbDetails_bit :
    ∀ x < 4, x ≠ 0 → ∀ z < 8, ∀ b : BitVec 3,
      cbDetails (opXYZ x b.toNat z) = { cbDetails (opXYZ x 0 z) with imm := BitVec.ofNat 16 b.toNat } := by decide

theorem xcbEntry_bit (j : Idx) :
    ∀ x < 4, x ≠ 0 → ∀ z < 8, ∀ b : BitVec 3,
      xcbEntry j (opXYZ x b.toNat z) = { xcbEntry j (opXYZ x 0 z) with imm := BitVec.ofNat 16 b.toNat } := by
  cases j <;> decide

theorem extractLsb'_ofNat_bit : ∀ b : BitVec 3, (BitVec.ofNat 16 b.toNat).extractLsb' 0 3 = b := by decide

theorem decodes_encCB_bit {x z : Nat} {b : BitVec 3} (hx : x < 4 ∧ x ≠ 0) (hz : z < 8)
    (hi : ∀ w : Word, w.extractLsb' 0 3 = b → ({ cbDetails (opXYZ x 0 z) with imm := w }.start 0).toInstr .none = i) :
    Decodes (encCB x b.toNat z) i := by
  refine decodes_encCB ?_
  rw [cbDetails_bit x hx.1 hx.2 z hz b]
  exact hi _ (extractLsb'_ofNat_bit b)

theorem decodes_encXCB_bit {x z : Nat} {b : BitVec 3} {j : Idx} {d : Byte} (hx : x < 4 ∧ x ≠ 0) (hz : z < 8)
    (hi : ∀ w : Word, w.extractLsb' 0 3 = b → ({ xcbEntry j (opXYZ x 0 z) with imm := w }.start d).toInstr .none = i) :
    Decodes (encXCB j d x b.toNat z) i := by
  refine decodes_encXCB ?_
  rw [xcbEntry_bit j x hx.1 hx.2 z hz b]
  exact hi _ (extractLsb'_ofNat_bit b)

theorem edDetails_im :
    ∀ i : BitVec 2, edDetails (opXYZ 1 i.toNat 6) = { mnemonic := .IM, source := .imm, imm := BitVec.ofNat 16 i.toNat } := by
  decide

theorem extractLsb'_ofNat_mode : ∀ i : BitVec 2, (BitVec.ofNat 16 i.toNat).extractLsb' 0 2 = i := by decide

theorem decodes_im (i : BitVec 2) : Decodes (encED (opXYZ 1 i.toNat 6)) (.im i) := by
  refine decodes_encED (ops := []) ?_
  rw [edDetails_im]
  exact .none rfl rfl (congrArg Instr.im (extractLsb'_ofNat_mode i))

theorem plainDetails_rst :
    ∀ p : Byte, isRstTarget p = true → prefixOf (0xC7#8 ||| p) = none ∧
      plainDetails (0xC7#8 ||| p) = { mnemonic := .RST, source := .imm, imm := joinBytes 0 p } := by
  decide

theorem decodes_rst {p : Byte} (hp : isRstTarget p = true) : Decodes [0xC7#8 ||| p] (.rst p) := by
  obtain ⟨hb, he⟩ := plainDetails_rst p hp
  refine decodes_plain hb ?_
  rw [he]
  exact .none rfl rfl (congrArg Instr.rst (loByte_joinBytes 0 p))

end

/-! ## All instructions -/

theorem decodes_encode {i : Instr} (hwf : i.wf = true) (hp : isPrefixRow i = false) : Decodes (encode i) i := by
  cases i with
  | prefixCB | prefixDD | prefixED | prefixFD => cases hp
  | nop | rlca | exAfAf | rrca | rla | rra | daa | cpl | incAtHl | decAtHl | scf | ccf | nopEmpty | halt | addAAtHl
  | adcAAtHl | subAtHl | sbcAAtHl | andAtHl | xorAtHl | orAtHl | cpAtHl | ret | exx | exAtSpHl | jpHl | exDeHl | di
  | ldSpHl | ei => exact decodes_plain rfl (.none rfl rfl rfl)
  | incRp r | incR r | decR r | addHlRp r | decRp r | ldAtHlR r | addAR r | adcAR r | subR r | sbcAR r | andR r | xorR r
  | orR r | cpR r | retCc r | popRp2 r | pushRp2 r => cases r <;> exact decodes_plain rfl (.none rfl rfl rfl)
  | ldRR r r' => cases r <;> cases r' <;> exact decodes_plain rfl (.none rfl rfl rfl)
  | ldAtRrA rr | ldAAtRr rr =>
    cases rr with
    | bc | de => exact decodes_plain rfl (.none rfl rfl rfl)
    | hl | sp => cases hwf
  | rst p => exact decodes_rst hwf
  | djnz d | jr d => exact decodes_plain rfl (.disp rfl rfl (fun _ => rfl) d)
  | jrCc cc d =>
    cases cc with
    | nz | z | nc | c => exact decodes_plain rfl (.disp rfl rfl (fun _ => rfl) d)
    | po | pe | p | m => cases hwf
  | ldRN r n => cases r <;> exact decodes_plain rfl (.imm8 rfl rfl (fun _ => rfl) n)
  | ldAtHlN n | addAN n | adcAN n | outNA n | subN n | inAN n | sbcAN n | andN n | xorN n | orN n | cpN n =>
    exact decodes_plain rfl (.imm8 rfl rfl (fun _ => rfl) n)
  | ldRpNn r nn | jpCc r nn | callCc r nn => cases r <;> exact decodes_plain rfl (.imm16 rfl rfl (fun _ => rfl) nn)
  | ldAtNnHl nn | ldHlAtNn nn | ldAtNnA nn | ldAAtNn nn | jp nn | call nn =>
    exact decodes_plain rfl (.imm16 rfl rfl (fun _ => rfl) nn)
  | rlcR r | rrcR r | rlR r | rrR r | slaR r | sraR r | sllR r | srlR r => cases r <;> exact decodes_encCB rfl
  | rlcAtHl | rrcAtHl | rlAtHl | rrAtHl | slaAtHl | sraAtHl | sllAtHl | srlAtHl => exact decodes_encCB rfl
  | bitR b r => cases r <;> exact decodes_encCB_bit (by decide) (by decide) fun _ h => h ▸ rfl
  | resR b r => cases r <;> exact decodes_encCB_bit (by decide) (by decide) fun _ h => h ▸ rfl
  | setR b r => cases r <;> exact decodes_encCB_bit (by decide) (by decide) fun _ h => h ▸ rfl
  | bitAtHl b => exact decodes_encCB_bit (by decide) (by decide) fun _ h => h ▸ rfl
  | resAtHl b => exact decodes_encCB_bit (by decide) (by decide) fun _ h => h ▸ rfl
  | setAtHl b => exact decodes_encCB_bit (by decide) (by decide) fun _ h => h ▸ rfl
  | noni | neg | retn | ldIA | reti | ldRA | ldAI | ldAR | rrd | rld | inC | outC0 | ldi | cpi | ini | outi | ldd | cpd | ind
  | outd | ldir | cpir | inir | otir | lddr | cpdr | indr | otdr => exact decodes_encED (ops := []) (.none rfl rfl rfl)
  | inRC r | outCR r | sbcHlRp r | adcHlRp r => cases r <;> exact decodes_encED (ops := []) (.none rfl rfl rfl)
  | ldAtNnRp rp nn | ldRpAtNn rp nn => cases rp <;> exact decodes_encED (.imm16 rfl rfl (fun _ => rfl) nn)
  | im m => exact decodes_im m
  | incX x | decX x | popX x | exAtSpX x | pushX x | jpX x | ldSpX x =>
    cases x <;> exact decodes_encX (ops := []) rfl (.none rfl rfl rfl)
  | addXRp x a | incXHalf x a | decXHalf x a | addAXHalf x a | adcAXHalf x a | subXHalf x a | sbcAXHalf x a | andXHalf x a
  | xorXHalf x a | orXHalf x a | cpXHalf x a =>
    cases x <;> cases a <;> exact decodes_encX (ops := []) rfl (.none rfl rfl rfl)
  | ldXHalfR x h src => cases x <;> cases h <;> cases src <;> exact decodes_encX (ops := []) rfl (.none rfl rfl rfl)
  | ldRXHalf r x h =>
    cases r with
    | h | l => cases hwf
    | b | c | d | e | a => cases x <;> cases h <;> exact decodes_encX (ops := []) rfl (.none rfl rfl rfl)
  | ldXNn x nn | ldAtNnX x nn | ldXAtNn x nn => cases x <;> exact decodes_encX rfl (.imm16 rfl rfl (fun _ => rfl) nn)
  | ldXHalfN x h n => cases x <;> cases h <;> exact decodes_encX rfl (.imm8 rfl rfl (fun _ => rfl) n)
  | incAtXd x d | decAtXd x d | addAAtXd x d | adcAAtXd x d | subAtXd x d | sbcAAtXd x d | andAtXd x d | xorAtXd x d
  | orAtXd x d | cpAtXd x d => cases x <;> exact decodes_encX rfl (.disp rfl rfl (fun _ => rfl) d)
  | ldAtXdN x d n => cases x <;> exact decodes_encX rfl (.dispImm8 rfl rfl (fun _ _ => rfl) d n)
  | ldAtXdR x d r =>
    cases r with
    | h | l => cases hwf
    | b | c | d | e | a => cases x <;> exact decodes_encX rfl (.disp rfl rfl (fun _ => rfl) d)
  | ldAtXdXHalf x d h => cases x <;> cases h <;> exact decodes_encX rfl (.disp rfl rfl (fun _ => rfl) d)
  | rlcAlt x d r | rrcAlt x d r | rlAlt x d r | rrAlt x d r | slaAlt x d r | sraAlt x d r | sllAlt x d r | srlAlt x d r =>
    cases x <;> cases r <;> exact decodes_encXCB rfl
  | rlcAtXd x d | rrcAtXd x d | rlAtXd x d | rrAtXd x d | slaAtXd x d | sraAtXd x d | sllAtXd x d | srlAtXd x d =>
    cases x <;> exact decodes_encXCB rfl
  | bitAtXd b x d => cases x <;> exact decodes_encXCB_bit (by decide) (by decide) fun _ h => h ▸ rfl
  | resAtXd b x d => cases x <;> exact decodes_encXCB_bit (by decide) (by decide) fun _ h => h ▸ rfl
  | setAtXd b x d => cases x <;> exact decodes_encXCB_bit (by decide) (by decide) fun _ h => h ▸ rfl
  | resAlt b x d r => cases x <;> cases r <;> exact decodes_encXCB_bit (by decide) (by decide) fun _ h => h ▸ rfl
  | setAlt b x d r => cases x <;> cases r <;> exact decodes_encXCB_bit (by decide) (by decide) fun _ h => h ▸ rfl

theorem decode_prefixRow {i : Instr} (hp : isPrefixRow i = true) : decode (encode i) = .ok (i, []) := by
  simp only [isPrefixRow, Bool.or_eq_true, beq_iff_eq] at hp
  obtain ((rfl | rfl) | rfl) | rfl := hp <;> rfl

/-- Settles O38: by the format of the instruction; a prefix row is read back where its byte stands alone. -/
theorem decodeOfEncode : Obligations.DecodeOfEncode := by
  intro i hwf
  refine ⟨?_, decodes_encode hwf⟩
  cases hp : isPrefixRow i with
  | true => exact decode_prefixRow hp
  | false => simpa using decodes_encode hwf hp []

end Sys2Proof
end

section
/-! PROOFS. The undefined encodings, the prefixes with no effect, NOP, NONI, the empty entry and the prefix rows, and sample
words (spec 30 R122, R127, R129, R131, R134; 46 R344 to R346). -/

namespace Sys2Proof

open Sys2Proof.Machine

/-! ## Encodings that give NONI -/

/-- ED with x = 0, x = 3, or an x = 2 opcode outside the block table (30 R127). -/
theorem edDetails_undefined {b : Byte} (h : (fieldX b = 0 ∨ fieldX b = 3) ∨ (fieldX b = 2 ∧ ¬ (fieldZ b ≤ 3 ∧ 4 ≤ fieldY b))) :
    edDetails b = noniEntry := by
  unfold edDetails
  obtain (hx | hx) | ⟨hx, hyz⟩ := h
  · rw [hx]
    rfl
  · rw [hx]
    rfl
  · rw [hx]
    exact if_neg hyz

theorem decodes_ED_undefined {b : Byte} (h : edDetails b = noniEntry) : Decodes [0xED#8, b] .noni :=
  decodes_encED (ops := []) (h ▸ .none rfl rfl rfl)

/-! ## Prefixes with no effect -/

/-- The rewrite touches nothing but the names HL, H and L (30 R130). -/
theorem rewriteOperand_of_other (x : Idx) {o : Operand} (h : ∀ o' ∈ [Operand.HL, .H, .L], o ≠ o') :
    rewriteOperand x o = o := by
  cases o with
  | HL => exact absurd rfl (h .HL (by simp))
  | H => exact absurd rfl (h .H (by simp))
  | L => exact absurd rfl (h .L (by simp))
  | _ => rfl

theorem rewriteEntry_of_other (x : Idx) {e : Entry}
    (h : ∀ o ∈ [Operand.HL, .H, .L], e.dest ≠ o ∧ e.source ≠ o) : rewriteEntry e x = e := by
  have hdest : e.dest ≠ .HL := (h .HL (by simp)).1
  have hsource : e.source ≠ .HL := (h .HL (by simp)).2
  unfold rewriteEntry
  split
  · rfl
  · rw [rewriteOperand_of_other x fun o ho => (h o ho).1, rewriteOperand_of_other x fun o ho => (h o ho).2]
    simp only [beq_false_of_ne hdest, beq_false_of_ne hsource, Bool.and_false, Bool.or_false]

/-- A prefix whose rewrite changes nothing leaves decoding as without it (30 R134). -/
theorem decode_X_of_rewriteEntry (x : Idx) {b : Byte} (hb : prefixOf b = none)
    (h : rewriteEntry (plainDetails b) x = plainDetails b) (bs : List Byte) :
    decode (x.prefixByte :: b :: bs) = decode (b :: bs) := by
  rw [decode_X_plain x hb, decode_plain hb, h]

/-- Settles O41: from the entry each opcode chooses. -/
theorem prefixesAndUndefinedEncodings : Obligations.PrefixesAndUndefinedEncodings := by
  refine ⟨prefixOf_ne_none_iff, fun b h => decodes_ED_undefined (edDetails_undefined h),
    fun x b hb => decode_X_prefix x (by simpa using hb), fun x b rest hb h => decode_X_of_rewriteEntry x hb ?_ rest⟩
  obtain rfl | h := h
  · rfl
  · exact rewriteEntry_of_other x h

/-! ## NOP, NONI, the empty entry, the prefix rows -/

/-- Under DD or FD an opcode whose entry names no operand decodes as without the prefix. -/
theorem decodes_X_of_plain (x : Idx) {b : Byte} {i : Instr} (hb : prefixOf b = none)
    (h : rewriteEntry (plainDetails b) x = plainDetails b) (hi : Decodes [b] i) : Decodes [x.prefixByte, b] i :=
  fun rest => (decode_X_of_rewriteEntry x hb h rest).trans (hi rest)

/-- The unprefixed opcodes of the empty entry (30 R139). -/
theorem plainDetails_emptyNop :
    ∀ b ∈ [0x46#8, 0x4E#8, 0x56#8, 0x5E#8, 0x66#8, 0x6E#8, 0x7E#8], prefixOf b = none ∧ plainDetails b = emptyNop := by
  decide

theorem decodes_nopEmpty {b : Byte} (hb : prefixOf b = none) (he : plainDetails b = emptyNop) :
    Decodes [b] .nopEmpty ∧ ∀ x : Idx, Decodes [x.prefixByte, b] .nopEmpty := by
  have hplain : Decodes [b] .nopEmpty := decodes_plain hb (he ▸ .none rfl rfl rfl)
  exact ⟨hplain, fun x => decodes_X_of_plain x hb (he ▸ rewriteEntry_of_other x (by decide)) hplain⟩

/-- A prefix row sets the prefix and nothing else. -/
theorem Machine.State.setPfx_completes (s : State) {b : Byte} {p : Pfx} {i : Instr} (hb : prefixOf b = some p)
    (hi : exec i s = .next (s.setPfx p)) :
    Completes i s fun t =>
      t.decoder.pfx = p ∧ SameBut [.decoder] s t ∧ (s.decoder = Decoder.empty → s.decoder.feed b = (t.decoder, none)) := by
  refine ⟨_, hi, rfl, rfl, fun hd => ?_⟩
  rw [State.setPfx, hd, Decoder.feed_empty, hb]
  rfl

/-- Settles O35: three instructions that leave the state, and four that only set the prefix. -/
theorem noOperationsAndPrefixRows : Obligations.NoOperationsAndPrefixRows := by
  have hnop : Decodes [0x00#8] .nop := decodes_encode (i := .nop) rfl rfl
  refine ⟨hnop, fun x => decodes_X_of_plain x rfl (rewriteEntry_of_other x (by decide)) hnop,
    decodes_encED (ops := []) (.none rfl rfl rfl), decodes_encED (ops := []) (.none rfl rfl rfl),
    decodes_ED_undefined rfl, fun b hb => ?_, fun s => ⟨?_, ?_⟩⟩
  · obtain ⟨hpfx, he⟩ := plainDetails_emptyNop b hb
    exact decodes_nopEmpty hpfx he
  · simp only [List.forall_mem_cons]
    exact ⟨⟨s, rfl, rfl⟩, ⟨s, rfl, rfl⟩, ⟨s, rfl, rfl⟩, List.forall_mem_nil _⟩
  · simp only [List.forall_mem_cons]
    exact ⟨s.setPfx_completes (b := 0xCB#8) (p := .CB) (i := .prefixCB) rfl rfl,
      s.setPfx_completes (b := 0xDD#8) (p := .DD) (i := .prefixDD) rfl rfl,
      s.setPfx_completes (b := 0xED#8) (p := .ED) (i := .prefixED) rfl rfl,
      s.setPfx_completes (b := 0xFD#8) (p := .FD) (i := .prefixFD) rfl rfl, List.forall_mem_nil _⟩

/-! ## Sample words -/

/-- The byte of an opcode is the sum of its fields at their places (30 R100). -/
theorem opXYZ_toNat {x y z : Nat} (hx : x < 4) (hy : y < 8) (hz : z < 8) : (opXYZ x y z).toNat = 64 * x + 8 * y + z := by
  rw [opXYZ, BitVec.toNat_ofNat]
  omega

theorem opXPQZ_toNat {x p q z : Nat} (hx : x < 4) (hp : p < 4) (hq : q < 2) (hz : z < 8) :
    (opXPQZ x p q z).toNat = 64 * x + 16 * p + 8 * q + z := by
  rw [opXPQZ, opXYZ_toNat hx (by omega) hz]
  omega

theorem decodes_of_encode {bytes : List Byte} {i : Instr} (he : encode i = bytes) (hwf : i.wf = true)
    (hp : isPrefixRow i = false) : Decodes bytes i :=
  he ▸ decodes_encode hwf hp

/-- Settles O40: a sample word that is the encoding of its instruction is read by `decodes_encode`; the two others are the
empty entry and a prefix after a prefix. -/
theorem sampleWordsDecode : Obligations.SampleWordsDecode := by
  refine ⟨rfl, rfl, rfl, rfl, rfl, fun x y z => opXYZ_toNat x.isLt y.isLt z.isLt,
    fun x p q z => opXPQZ_toNat x.isLt p.isLt q.isLt z.isLt, ?_⟩
  exact ⟨decodes_of_encode rfl rfl rfl, decodes_of_encode rfl rfl rfl, decodes_of_encode rfl rfl rfl,
    decodes_of_encode rfl rfl rfl, decodes_of_encode rfl rfl rfl, decodes_of_encode rfl rfl rfl,
    decodes_of_encode rfl rfl rfl, decodes_of_encode rfl rfl rfl, decodes_of_encode rfl rfl rfl,
    decodes_of_encode rfl rfl rfl, decodes_of_encode rfl rfl rfl, (decodes_nopEmpty rfl rfl).2 .ix,
    decode_X_prefix .ix (by simp)⟩

end Sys2Proof
end

section
/-! PROOFS. A step in a quiet environment is never stopped: four bytes always hold an instruction, and bus operations,
internal cycles and acknowledges keep the environment quiet. -/

namespace Sys2Proof.Machine

variable {s t : State}

/-! ## What keeps the environment quiet -/

theorem Quiet.drives (q : Quiet s) (h : Drives s t) : Quiet t := by
  obtain ⟨_, h⟩ := h
  exact (q.bus h).1

/-- The environment is no part of the timing. -/
theorem Quiet.of_sameBut_timing (q : Quiet s) (h : SameBut [.timing] s t) : Quiet t := by
  have hsurface : s.toSurface.restoreTiming t.toSurface = s.toSurface := congrArg State.toSurface h
  exact ((quiet_iff_surface s).1 q).of_restoreTiming hsurface

theorem Quiet.haltedCycle (q : Quiet s) : Quiet s.haltedCycle := (q.bus s.haltedCycle_bus).1

theorem Quiet.enterNmi (q : Quiet s) : Quiet s.enterNmi := by
  have q0 : Quiet s.beforeNmi := q
  have hack : Quiet s.nmiAcknowledged := (q0.bus s.nmiAcknowledged_bus).1
  rw [State.enterNmi_eq]
  exact hack.drives ((Drives.refl _).enterAt 0x0066#16)

theorem Quiet.enterInt (q : Quiet s) : Quiet s.enterInt := by
  have q0 : Quiet s.beforeInt := q
  have hack : Quiet s.acknowledged := (q0.bus s.acknowledged_bus).1
  rcases s.enterInt_cases with ⟨v, ⟨-, e⟩ | ⟨-, e⟩ | ⟨-, e⟩⟩ <;> rw [e]
  · exact hack
  · exact hack.drives ((Drives.refl _).enterAt 0x0038#16)
  · exact hack.drives ((Drives.refl _).enterMode2 v)

theorem Quiet.interruptCheck (q : Quiet s) : Quiet s.interruptCheck := by
  unfold State.interruptCheck
  split
  · exact q.enterNmi
  split
  · exact q.enterInt
  · exact q

/-! ## Progress -/

theorem Quiet.toOut_eq (q : Quiet s) : toOut s = .next s := by
  obtain ⟨-, -, -, -, -, -, hstuck⟩ := q
  exact toOut_ok hstuck

/-- The four upcoming bytes always hold an instruction (30 R101). -/
theorem State.upcoming_decodes (s : State) : ∃ i left, decode s.upcoming = .ok (i, left) := by
  obtain ⟨b0, b1, b2, b3, h⟩ : ∃ b0 b1 b2 b3, s.upcoming = [b0, b1, b2, b3] := by
    unfold State.upcoming
    split <;> exact ⟨_, _, _, _, rfl⟩
  obtain ⟨i, n, -, -, hdec, -⟩ := decodeIsTotal b0 b1 b2 b3 []
  exact ⟨i, _, h ▸ hdec⟩

/-- In a quiet environment a step, halted or not, is an interrupt check in a quiet state. -/
theorem Quiet.step_eq (q : Quiet s) (hd : s.decoder = Decoder.empty) :
    ∃ v, Quiet v ∧ step s = toOut v.interruptCheck := by
  cases hh : s.halted with
  | true =>
    have q0 : Quiet s.beginStep := q
    obtain ⟨-, -, -, -, -, hkill, -⟩ := q
    exact ⟨_, q0.haltedCycle, step_of_halted hkill q0.resetLine hh⟩
  | false =>
    obtain ⟨i, left, hdec⟩ := s.upcoming_decodes
    obtain ⟨_, _, v, -, -, -, qt, -, -, -, htiming, hstep⟩ := quietStepIsFetchExecCheck s i left q hh hd hdec
    exact ⟨v, qt.of_sameBut_timing htiming, hstep⟩

/-- Settles O44: every step comes to its interrupt check in a quiet state (`Quiet.step_eq`), the check keeps it quiet, and
the decoder is empty again (`step_decoder`). -/
theorem quietMachineNeverStops : Obligations.QuietMachineNeverStops := by
  intro s q hd
  obtain ⟨v, qv, hstep⟩ := q.step_eq hd
  have hnext : step s = .next v.interruptCheck := hstep.trans qv.interruptCheck.toOut_eq
  exact ⟨v.interruptCheck, hnext, qv.interruptCheck, step_decoder hnext hd⟩

end Sys2Proof.Machine
end

section
/-! PROOFS. Encodings of the loads, where an immediate follows the opcode and where a DD or FD prefix has no effect, and words
read from memory and written to it. -/

namespace Sys2Proof

open Sys2Proof.Machine

/-! ## Words -/

theorem joinBytes_toNat (hi lo : Byte) : (joinBytes hi lo).toNat = 256 * hi.toNat + lo.toNat := by
  rw [joinBytes, BitVec.toNat_append, ← Nat.shiftLeft_add_eq_or_of_lt lo.isLt, Nat.shiftLeft_eq, Nat.mul_comm]

theorem hiByte_toNat (w : Word) : (hiByte w).toNat = w.toNat / 256 := by
  have hw := w.isLt
  rw [hiByte, BitVec.extractLsb'_toNat, Nat.shiftRight_eq_div_pow]
  omega

theorem loByte_toNat (w : Word) : (loByte w).toNat = w.toNat % 256 := by
  rw [loByte, BitVec.extractLsb'_toNat, Nat.shiftRight_zero]

theorem immBytesOf_joinBytes (hi lo : Byte) : immBytesOf (joinBytes hi lo) = [lo, hi] := by
  rw [immBytesOf, loByte_joinBytes, hiByte_joinBytes]

/-! ## Encodings -/

/-- An encoding that ends in a 16-bit immediate, low byte first (30 R124). -/
theorem decodes_of_encode_imm16 {pre : List Byte} {f : Word → Instr}
    (h : ∀ nn, encode (f nn) = pre ++ immBytesOf nn ∧ (f nn).wf = true ∧ isPrefixRow (f nn) = false) (lo hi : Byte) :
    Decodes (pre ++ [lo, hi]) (f (joinBytes hi lo)) := by
  obtain ⟨he, hwf, hp⟩ := h (joinBytes hi lo)
  rw [immBytesOf_joinBytes] at he
  exact decodes_of_encode he hwf hp

/-- Under DD or FD an opcode whose entry the rewrite leaves alone decodes as without the prefix, with its operand bytes. -/
theorem decodes_X_of_rewriteEntry (x : Idx) {b : Byte} {ops : List Byte} {i : Instr} (hb : prefixOf b = none)
    (h : rewriteEntry (plainDetails b) x = plainDetails b) (hi : Decodes (b :: ops) i) :
    Decodes (x.prefixByte :: b :: ops) i :=
  fun rest => (decode_X_of_rewriteEntry x hb h (ops ++ rest)).trans (hi rest)

/-- The registers that the rewrite leaves alone (30 R130). -/
theorem tabR_of_notHL {r : Reg8} (h : r.notHL = true) : ∀ o ∈ [Operand.HL, .H, .L], (tabR r.code).1 ≠ o := by
  cases r with
  | h | l => cases h
  | b | c | d | e | a => decide

theorem plainDetails_ldRR (r r' : Reg8) :
    prefixOf (opXYZ 1 r.code r'.code) = none ∧
      plainDetails (opXYZ 1 r.code r'.code) =
        { mnemonic := .LD, dest := (tabR r.code).1, source := (tabR r'.code).1 } := by
  cases r <;> cases r' <;> exact ⟨rfl, rfl⟩

theorem plainDetails_ldRN (r : Reg8) :
    prefixOf (opXYZ 0 r.code 6) = none ∧
      plainDetails (opXYZ 0 r.code 6) =
        { mnemonic := .LD, dest := (tabR r.code).1, source := .imm, immBytes := 1 } := by
  cases r <;> exact ⟨rfl, rfl⟩

theorem decodes_ldRR (r r' : Reg8) : Decodes [opXYZ 1 r.code r'.code] (.ldRR r r') := decodes_of_encode rfl rfl rfl

theorem decodes_ldRR_prefixed (x : Idx) {r r' : Reg8} (hr : r.notHL = true) (hr' : r'.notHL = true) :
    Decodes [x.prefixByte, opXYZ 1 r.code r'.code] (.ldRR r r') := by
  obtain ⟨hb, he⟩ := plainDetails_ldRR r r'
  refine decodes_X_of_rewriteEntry x hb ?_ (decodes_ldRR r r')
  rw [he]
  exact rewriteEntry_of_other x fun o ho => ⟨tabR_of_notHL hr o ho, tabR_of_notHL hr' o ho⟩

theorem decodes_ldRN (r : Reg8) (n : Byte) : Decodes [opXYZ 0 r.code 6, n] (.ldRN r n) := decodes_of_encode rfl rfl rfl

theorem decodes_ldRN_prefixed (x : Idx) {r : Reg8} (hr : r.notHL = true) (n : Byte) :
    Decodes [x.prefixByte, opXYZ 0 r.code 6, n] (.ldRN r n) := by
  obtain ⟨hb, he⟩ := plainDetails_ldRN r
  have himm : ∀ o ∈ [Operand.HL, .H, .L], Operand.imm ≠ o := by decide
  refine decodes_X_of_rewriteEntry x hb ?_ (decodes_ldRN r n)
  rw [he]
  exact rewriteEntry_of_other x fun o ho => ⟨tabR_of_notHL hr o ho, himm o ho⟩

end Sys2Proof

namespace Sys2Proof.Machine

/-! ## Bus operations seen through an update of registers -/

theorem Bus.of_eq {s t u : State} {ops : List BusOp} (h : Bus s t ops) (hs : u.toSurface = t.toSurface)
    (ht : u.trace = t.trace) : Bus s u ops := by
  unfold Bus Ops at h ⊢
  rwa [hs, ht]

variable (s : State) (a v : Word)

/-! ## Words in memory -/

theorem State.memRead16_does :
    Bus s (s.memRead16 a).2 [.readMemory a (s.peek a), .readMemory (a + 1) (s.peek (a + 1))] :=
  ⟨s.memRead16_bus a, rfl⟩

theorem State.memWrite16_does :
    Bus s (s.memWrite16 a v) [.writeMemory a (loByte v), .writeMemory (a + 1) (hiByte v)] :=
  ⟨s.memWrite16_bus a v, rfl⟩

end Sys2Proof.Machine
end

section
/-! PROOFS. 8-bit loads (spec 41 R201 to R209). -/

namespace Sys2Proof.Machine

variable {s : State} {i : Instr}

/-- Settles O1: each form is one `setReg` or one `setHalf`. -/
theorem loadRegistersAndHalves : Obligations.LoadRegistersAndHalves := by
  refine ⟨rfl, rfl, decodes_ldRR, fun x _ _ hr hr' => decodes_ldRR_prefixed x hr hr',
    fun r x h hr => decodes_of_encode rfl hr rfl, fun x h src => decodes_of_encode rfl rfl rfl, decodes_ldRN,
    fun x _ n hr => decodes_ldRN_prefixed x hr n, fun x h n => decodes_of_encode rfl rfl rfl,
    decodes_of_encode rfl rfl rfl, decodes_of_encode rfl rfl rfl, fun s => ?_⟩
  refine ⟨rfl, rfl, rfl, fun x => ⟨rfl, rfl, rfl⟩, fun r r' => ⟨_, rfl, ?_⟩, fun r n => ⟨_, rfl, ?_⟩,
    fun r x h => ⟨_, rfl, ?_⟩, fun x h src => ⟨_, rfl, ?_⟩, fun x h n => ⟨_, rfl, ?_⟩⟩
  · exact ⟨s.reg_setReg_same r _, s.setReg_frame r _⟩
  · exact ⟨s.reg_setReg_same r n, s.setReg_frame r n⟩
  · exact ⟨s.reg_setReg_same r _, s.setReg_frame r _⟩
  · exact ⟨fun g => s.half_setHalf x h g _, s.setHalf_frame x h _⟩
  · exact ⟨fun g => s.half_setHalf x h g n, s.setHalf_frame x h n⟩

/-- An instruction that is one read of memory and a write of the byte to A. -/
theorem completes_loadA {a : Word} (h : exec i s = .next ((s.memRead a).2.setReg .a (s.peek a))) :
    Completes i s fun t =>
      t.main.a = s.peek a ∧ Bus s t [.readMemory a (s.peek a)] ∧ SameBut [.reg .a, .bus] s t :=
  ⟨_, h, rfl, ⟨s.memRead_bus a, rfl⟩, rfl⟩

/-- Settles O2: each form is `memRead` and a write of A (`completes_loadA`); the prefixed ones rewrite nothing. -/
theorem loadAccumulatorFromMemory : Obligations.LoadAccumulatorFromMemory := by
  have hbc : Decodes [0x0A#8] (.ldAAtRr .bc) := decodes_of_encode rfl rfl rfl
  have hde : Decodes [0x1A#8] (.ldAAtRr .de) := decodes_of_encode rfl rfl rfl
  exact ⟨hbc, hde, fun x => ⟨decodes_X_of_plain x rfl rfl hbc, decodes_X_of_plain x rfl rfl hde⟩,
    decodes_of_encode_imm16 (pre := [0x3A#8]) (f := .ldAAtNn) fun _ => ⟨rfl, rfl, rfl⟩,
    fun s => ⟨fun rr _ => completes_loadA rfl, fun nn => completes_loadA rfl⟩⟩

/-- An instruction that is one store of a byte: the discarded pre-read, then the write (40 R172, R180). -/
theorem completes_storeByte {a : Word} {v : Byte} (h : exec i s = .next (s.storeAt a v)) :
    Completes i s (Rewrites s a v []) :=
  ⟨_, h, s.storeAt_rewrites a v⟩

/-- Settles O3: each form is one `storeAt` (`completes_storeByte`). -/
theorem storeByteInstructions : Obligations.StoreByteInstructions := by
  refine ⟨fun r => decodes_of_encode rfl rfl rfl, fun x d r hr => decodes_of_encode rfl hr rfl,
    fun x d h => decodes_of_encode rfl rfl rfl, fun n => decodes_of_encode rfl rfl rfl,
    fun x d n => decodes_of_encode rfl rfl rfl, decodes_of_encode rfl rfl rfl, decodes_of_encode rfl rfl rfl,
    decodes_of_encode_imm16 (pre := [0x32#8]) (f := .ldAtNnA) fun _ => ⟨rfl, rfl, rfl⟩, fun s => ?_⟩
  exact ⟨rfl, fun x d => ⟨rfl, rfl⟩, fun r => completes_storeByte rfl, fun x d r => completes_storeByte rfl,
    fun x d h => completes_storeByte rfl, fun n => completes_storeByte rfl, fun x d n => completes_storeByte rfl,
    fun rr _ => completes_storeByte rfl, fun nn => completes_storeByte rfl⟩

end Sys2Proof.Machine
end

section
/-! PROOFS. 16-bit loads (spec 41 R210 to R213, R221, R222). -/

namespace Sys2Proof.Machine

variable {s : State} {i : Instr}

/-- Settles O4: each form is one `setPair` or one `setIdx`. -/
theorem loadPairsAndStackPointer : Obligations.LoadPairsAndStackPointer := by
  refine ⟨fun rp => decodes_of_encode_imm16 (pre := [_]) (f := .ldRpNn rp) fun _ => ⟨rfl, rfl, rfl⟩,
    fun x => decodes_of_encode_imm16 (pre := [_, 0x21#8]) (f := .ldXNn x) fun _ => ⟨rfl, rfl, rfl⟩,
    decodes_of_encode rfl rfl rfl, fun x => decodes_of_encode rfl rfl rfl, joinBytes_toNat,
    fun w => ⟨hiByte_toNat w, loByte_toNat w⟩, fun s => ?_⟩
  refine ⟨rfl, rfl, rfl, rfl, rfl, fun x => ⟨rfl, rfl⟩, fun rp nn => ⟨_, rfl, ?_⟩, fun hi lo => ?_,
    fun x nn => ⟨_, rfl, ?_⟩, ⟨_, rfl, rfl, s.setPair_frame .sp _⟩, fun x => ⟨_, rfl, rfl, s.setPair_frame .sp _⟩⟩
  · exact ⟨s.pair_setPair_same rp nn, s.setPair_frame rp nn⟩
  · have hhi := hiByte_joinBytes hi lo
    have hlo := loByte_joinBytes hi lo
    exact ⟨⟨_, rfl, hhi, hlo⟩, ⟨_, rfl, hhi, hlo⟩, _, rfl, hhi, hlo⟩
  · exact ⟨s.idx_setIdx_same x nn, s.setIdx_frame x nn⟩

/-- An instruction that is a read of a word and a write of it to a pair. -/
theorem completes_loadPair {rp : Rp} {a : Word} (h : exec i s = .next ((s.memRead16 a).2.setPair rp (s.peek16 a))) :
    Completes i s fun t =>
      t.pair rp = s.peek16 a ∧ Bus s t [.readMemory a (s.peek a), .readMemory (a + 1) (s.peek (a + 1))] ∧
        SameBut (.bus :: pairParts rp) s t := by
  refine ⟨_, h, State.pair_setPair_same _ rp _,
    (s.memRead16_does a).of_eq (State.setPair_toSurface _ rp _) (State.setPair_trace _ rp _), ?_⟩
  cases rp <;> rfl

theorem completes_ldXAtNn (x : Idx) (nn : Word) (s : State) :
    Completes (.ldXAtNn x nn) s fun t =>
      t.idx x = s.peek16 nn ∧ Bus s t [.readMemory nn (s.peek nn), .readMemory (nn + 1) (s.peek (nn + 1))] ∧
        SameBut [.bus, .idx x] s t := by
  refine ⟨_, rfl, State.idx_setIdx_same _ x _,
    (s.memRead16_does nn).of_eq (State.setIdx_toSurface _ x _) (State.setIdx_trace _ x _), ?_⟩
  cases x <;> rfl

/-- Settles O5: each form is `memRead16` and one `setPair` or `setIdx`. -/
theorem loadWordFromMemory : Obligations.LoadWordFromMemory :=
  ⟨decodes_of_encode_imm16 (pre := [0x2A#8]) (f := .ldHlAtNn) fun _ => ⟨rfl, rfl, rfl⟩,
    fun x => decodes_of_encode_imm16 (pre := [_, 0x2A#8]) (f := .ldXAtNn x) fun _ => ⟨rfl, rfl, rfl⟩,
    fun rp => decodes_of_encode_imm16 (pre := [0xED#8, _]) (f := .ldRpAtNn rp) fun _ => ⟨rfl, rfl, rfl⟩,
    fun s nn => ⟨completes_loadPair rfl, fun x => completes_ldXAtNn x nn s, fun _ => completes_loadPair rfl⟩⟩

/-- An instruction that is one store of a word: the discarded pre-read of the low byte, then the writes (40 R172, R180). -/
theorem completes_storeWord {a v : Word} (h : exec i s = .next (s.storeAt16 a v)) :
    Completes i s fun t =>
      StoresWord s t a v ∧
        Bus s t [.readMemory a (s.peek a), .writeMemory a (loByte v), .writeMemory (a + 1) (hiByte v)] ∧
        SameBut [.mem, .bus] s t :=
  ⟨_, h, s.storeAt16_stores a v, s.storeAt16_bus a v, s.storeAt16_frame a v⟩

/-- Settles O6: each form is one `storeAt16` (`completes_storeWord`). -/
theorem storeWordInstructions : Obligations.StoreWordInstructions :=
  ⟨decodes_of_encode_imm16 (pre := [0x22#8]) (f := .ldAtNnHl) fun _ => ⟨rfl, rfl, rfl⟩,
    fun x => decodes_of_encode_imm16 (pre := [_, 0x22#8]) (f := .ldAtNnX x) fun _ => ⟨rfl, rfl, rfl⟩,
    fun rp => decodes_of_encode_imm16 (pre := [0xED#8, _]) (f := .ldAtNnRp rp) fun _ => ⟨rfl, rfl, rfl⟩,
    fun _ _ => ⟨completes_storeWord rfl, fun _ => completes_storeWord rfl, fun _ => completes_storeWord rfl⟩⟩

end Sys2Proof.Machine
end

section
/-! PROOFS. Exchanges (spec 41 R217 to R220). -/

namespace Sys2Proof.Machine

/-! ## Between registers -/

theorem completes_exDeHl (s : State) : Completes .exDeHl s fun t =>
    t.pair .de = s.pair .hl ∧ t.pair .hl = s.pair .de ∧ SameBut (pairParts .de ++ pairParts .hl) s t := by
  refine ⟨_, rfl, joinBytes_hi_lo (s.pair .hl), joinBytes_hi_lo (s.pair .de), ?_⟩
  obtain ⟨surface, main⟩ := s
  cases main
  rfl

theorem completes_exx (s : State) : Completes .exx s fun t =>
    (∀ r, r ≠ .a → t.main.get r = s.alt.get r ∧ t.alt.get r = s.main.get r) ∧ t.alt.a = s.alt.a ∧ t.alt.f = s.alt.f ∧
      SameBut [.reg .b, .reg .c, .reg .d, .reg .e, .reg .h, .reg .l, .alt] s t := by
  refine ⟨_, rfl, fun r hr => ?_, rfl, rfl, ?_⟩
  · cases r with
    | a => exact absurd rfl hr
    | b | c | d | e | h | l => exact ⟨rfl, rfl⟩
  · obtain ⟨surface, main⟩ := s
    cases main
    rfl

/-- Settles O8: each form exchanges the values of two places. Under DD or FD, EX DE,HL is exempt from the rewrite (30 R131)
and EXX names no operand. -/
theorem exchangeInstructions : Obligations.ExchangeInstructions := by
  have hde : Decodes [0xEB#8] .exDeHl := decodes_of_encode rfl rfl rfl
  have hexx : Decodes [0xD9#8] .exx := decodes_of_encode rfl rfl rfl
  exact ⟨hde, fun x => decodes_X_of_plain x rfl rfl hde, decodes_of_encode rfl rfl rfl, hexx,
    fun x => decodes_X_of_plain x rfl rfl hexx, fun s =>
      ⟨completes_exDeHl s, ⟨_, rfl, rfl, rfl, rfl, rfl⟩, completes_exx s⟩⟩

/-! ## With the top of the stack -/

variable (s : State) (v : Word)

/-- The state of EX (SP) after its bus operations: the word at SP read, then `v` written there. -/
def State.swapTop : State := (s.memRead16 s.sp).2.memWrite16 s.sp v

theorem State.swapTop_stores : StoresWord s (s.swapTop v) s.sp v :=
  ((s.memRead16 s.sp).2.memWrite16_stores s.sp v).from_eq rfl rfl

theorem State.swapTop_bus :
    Bus s (s.swapTop v) [.readMemory s.sp (s.peek s.sp), .readMemory (s.sp + 1) (s.peek (s.sp + 1)),
      .writeMemory s.sp (loByte v), .writeMemory (s.sp + 1) (hiByte v)] :=
  (s.memRead16_does s.sp).trans ((s.memRead16 s.sp).2.memWrite16_does s.sp v)

theorem completes_exAtSpHl : Completes .exAtSpHl s fun t =>
    t.pair .hl = s.peek16 s.sp ∧ StoresWord s t s.sp s.hl ∧
      Bus s t [.readMemory s.sp (s.peek s.sp), .readMemory (s.sp + 1) (s.peek (s.sp + 1)),
        .writeMemory s.sp (loByte s.hl), .writeMemory (s.sp + 1) (hiByte s.hl)] ∧
      SameBut (.mem :: .bus :: pairParts .hl) s t :=
  ⟨(s.swapTop s.hl).setPair .hl (s.peek16 s.sp), rfl, State.pair_setPair_same _ .hl _, s.swapTop_stores s.hl,
    s.swapTop_bus s.hl, rfl⟩

theorem completes_exAtSpX (x : Idx) : Completes (.exAtSpX x) s fun t =>
    t.idx x = s.peek16 s.sp ∧ StoresWord s t s.sp (s.idx x) ∧
      Bus s t [.readMemory s.sp (s.peek s.sp), .readMemory (s.sp + 1) (s.peek (s.sp + 1)),
        .writeMemory s.sp (loByte (s.idx x)), .writeMemory (s.sp + 1) (hiByte (s.idx x))] ∧
      SameBut [.mem, .bus, .idx x] s t := by
  refine ⟨(s.swapTop (s.idx x)).setIdx x (s.peek16 s.sp), rfl, State.idx_setIdx_same _ x _,
    (s.swapTop_stores (s.idx x)).of_eq (State.setIdx_cfg _ x _) (State.setIdx_mem _ x _),
    (s.swapTop_bus (s.idx x)).of_eq (State.setIdx_toSurface _ x _) (State.setIdx_trace _ x _), ?_⟩
  cases x <;> rfl

/-- Settles O9: each form is `swapTop` with the operand, and a write of the word read to the operand. -/
theorem exchangeStackTop : Obligations.ExchangeStackTop :=
  ⟨decodes_of_encode rfl rfl rfl, fun _ => decodes_of_encode rfl rfl rfl, fun s =>
    ⟨completes_exAtSpHl s, fun x => completes_exAtSpX s x⟩⟩

end Sys2Proof.Machine
end

section
/-! PROOFS. The formulas of 40 R175 and R176 for a subtraction, which `Rule` states on exact integers, on bit vectors. -/

namespace Sys2Proof

theorem Rule.wrap_diff {w : Nat} (a b : BitVec w) (c : Bool) : Rule.wrap w (Rule.diff a b c) = Machine.subRes a b c := by
  simp [Rule.wrap, Rule.diff, Machine.subRes, Machine.carryIn, sub_eq_add_neg, BitVec.ofInt_add, BitVec.ofInt_neg]

theorem Rule.sign_eq_msb (w : Nat) (r : Int) : Rule.sign w r = (Rule.wrap w r).msb :=
  (BitVec.msb_eq_getLsbD_last _).symm

theorem Rule.zero_eq_beq (w : Nat) (r : Int) : Rule.zero w r = (Rule.wrap w r == 0#w) := by
  have hr : 0 ≤ r % ((2 ^ w : Nat) : Int) := Int.emod_nonneg r (by positivity)
  have hwrap : Rule.wrap w r = 0#w ↔ r % ((2 ^ w : Nat) : Int) = 0 := by
    rw [← BitVec.toNat_inj, Rule.wrap, BitVec.toNat_ofInt, BitVec.toNat_zero]
    omega
  rw [Rule.zero, beq_eq_decide, decide_eq_decide, hwrap, Nat.cast_pow, Nat.cast_ofNat]

theorem Machine.subRes_false {w : Nat} (a b : BitVec w) : Machine.subRes a b false = a - b := BitVec.sub_zero (a - b)

end Sys2Proof
end

section
/-! PROOFS. Block transfers and block compares (spec 42 R242 to R249). -/

namespace Sys2Proof.Machine

variable {s t : State}

/-! ## What follows a unit -/

/-- The repeating forms go back by 2 where their continue condition holds (42 R240). -/
theorem State.rewindIf_pc_of_iff {again : Bool} {p : Prop} [Decidable p] (h : again = true ↔ p) :
    (s.rewindIf again).pc = if p then s.pc - 2 else s.pc := by
  by_cases hp : p
  · rw [if_pos hp, h.2 hp]
    rfl
  · rw [if_neg hp, Bool.eq_false_iff.2 (mt h.1 hp)]
    rfl

theorem UndocAre.rewindIf {v5 v3 : Bool} (h : UndocAre s t v5 v3) (again : Bool) :
    UndocAre s (t.rewindIf again) v5 v3 := by
  unfold UndocAre at h ⊢
  rwa [State.rewindIf_main]

variable (s) (step : Word)

/-! ## LDI, LDD, LDIR, LDDR -/

theorem State.ldUnit_stores : StoresByte s (s.ldUnit step) (s.pair .de) (s.peek s.hl) :=
  (((s.memRead s.hl).2.memWrite_stores (s.pair .de) (s.peek s.hl)).from_eq rfl rfl).of_eq rfl rfl

theorem State.ldUnit_bus :
    Bus s (s.ldUnit step) [.readMemory s.hl (s.peek s.hl), .writeMemory (s.pair .de) (s.peek s.hl)] :=
  ⟨List.append_assoc .., rfl⟩

theorem State.ldUnit_hl : (s.ldUnit step).pair .hl = s.pair .hl + step := joinBytes_hi_lo (s.pair .hl + step)

theorem State.ldUnit_de : (s.ldUnit step).pair .de = s.pair .de + step := joinBytes_hi_lo (s.pair .de + step)

theorem State.ldUnit_bc : (s.ldUnit step).pair .bc = s.pair .bc - 1 := joinBytes_hi_lo (s.pair .bc - 1)

theorem State.ldUnit_flags :
    FlagsAre (s.ldUnit step).main.f s.main.f.s s.main.f.z false (s.pair .bc - 1 != 0) false s.main.f.c :=
  State.writeFlags_flags ..

theorem State.ldUnit_undoc :
    UndocAre s (s.ldUnit step) ((s.peek s.hl + s.main.a).getLsbD 1) ((s.peek s.hl + s.main.a).getLsbD 3) :=
  State.writeFlags_undoc _ _

theorem State.ldUnit_frame (again : Bool) :
    SameBut ([.mem, .bus, .flags, .draws, .pc] ++ pairParts .hl ++ pairParts .de ++ pairParts .bc) s
      ((s.ldUnit step).rewindIf again) := by
  obtain ⟨surface, main⟩ := s
  cases main
  cases again <;> rfl

/-- Settles O10: each form is `ldUnit`, and the rewind of the repeating forms. -/
theorem blockTransferUnit : Obligations.BlockTransferUnit := by
  refine ⟨fun _ => rfl, fun _ => rfl, fun _ => rfl, fun _ => rfl, fun s => ?_⟩
  intro m unit
  have holds (step : Word) (again : Bool) :
      unit step again ((s.ldUnit step).rewindIf (again && s.pair .bc - 1 != 0)) := by
    have hbc := (State.rewindIf_pair _ (again && s.pair .bc - 1 != 0) .bc).trans (s.ldUnit_bc step)
    refine ⟨(s.ldUnit_stores step).of_eq (State.rewindIf_cfg _ _) (State.rewindIf_mem _ _),
      (s.ldUnit_bus step).rewindIf _, (State.rewindIf_pair _ _ _).trans (s.ldUnit_hl step),
      (State.rewindIf_pair _ _ _).trans (s.ldUnit_de step), hbc, ?_, (s.ldUnit_undoc step).rewindIf _, ?_,
      s.ldUnit_frame step _⟩
    · rw [hbc, decide_not, State.rewindIf_main]
      exact s.ldUnit_flags step
    · rw [hbc]
      refine State.rewindIf_pc_of_iff ?_
      rw [Bool.and_eq_true, bne_iff_ne]
  exact ⟨⟨_, rfl, holds stepUp false⟩, ⟨_, rfl, holds stepDown false⟩, ⟨_, rfl, holds stepUp true⟩,
    ⟨_, rfl, holds stepDown true⟩⟩

/-! ## CPI, CPD, CPIR, CPDR -/

theorem State.cpUnit_bus : Bus s (s.cpUnit step) [.readMemory s.hl (s.peek s.hl)] := ⟨rfl, rfl⟩

theorem State.cpUnit_hl : (s.cpUnit step).pair .hl = s.pair .hl + step := joinBytes_hi_lo (s.pair .hl + step)

theorem State.cpUnit_bc : (s.cpUnit step).pair .bc = s.pair .bc - 1 := joinBytes_hi_lo (s.pair .bc - 1)

theorem State.wrap_diff_eq_cpDiff : Rule.wrap 8 (Rule.diff s.main.a (s.peek s.hl) false) = s.cpDiff :=
  (Rule.wrap_diff ..).trans (subRes_false ..)

theorem State.cpDiff_eq_zero_iff : s.cpDiff = 0 ↔ s.main.a = s.peek s.hl := sub_eq_zero

theorem State.cpUnit_flags :
    FlagsAre (s.cpUnit step).main.f s.cpDiff.msb (s.cpDiff == 0) ((s.main.a &&& s.peek s.hl).getLsbD 4)
      (s.pair .bc - 1 != 0) true s.main.f.c :=
  State.writeFlags_flags ..

theorem State.cpUnit_undoc : UndocAre s (s.cpUnit step) (s.cpDiff.getLsbD 5) (s.cpDiff.getLsbD 3) :=
  State.writeFlags_undoc _ _

theorem State.cpUnit_frame (again : Bool) :
    SameBut ([.bus, .flags, .draws, .pc] ++ pairParts .hl ++ pairParts .bc) s ((s.cpUnit step).rewindIf again) := by
  obtain ⟨surface, main⟩ := s
  cases main
  cases again <;> rfl

/-- Settles O11: each form is `cpUnit`, and the rewind of the repeating forms. The statement's difference, on exact
integers, is the model's `cpDiff` modulo 2^8. -/
theorem blockCompareUnit : Obligations.BlockCompareUnit := by
  refine ⟨fun _ => rfl, fun _ => rfl, fun _ => rfl, fun _ => rfl, fun s => ?_⟩
  intro m r unit
  have hr : Rule.wrap 8 r = s.cpDiff := s.wrap_diff_eq_cpDiff
  have holds (step : Word) (again : Bool) :
      unit step again ((s.cpUnit step).rewindIf (again && (s.pair .bc - 1 != 0 && s.cpDiff != 0))) := by
    have hbc := (State.rewindIf_pair _ (again && (s.pair .bc - 1 != 0 && s.cpDiff != 0)) .bc).trans (s.cpUnit_bc step)
    refine ⟨(s.cpUnit_bus step).rewindIf _, (State.rewindIf_pair _ _ _).trans (s.cpUnit_hl step), hbc, ?_, ?_, ?_, ?_,
      s.cpUnit_frame step _⟩
    · rw [hbc, Rule.sign_eq_msb, Rule.zero_eq_beq, hr, ← getLsbD_four, decide_not, State.rewindIf_main]
      exact s.cpUnit_flags step
    · rw [State.rewindIf_main]
      exact beq_iff_eq.trans s.cpDiff_eq_zero_iff
    · rw [hr]
      exact (s.cpUnit_undoc step).rewindIf _
    · rw [hbc]
      refine State.rewindIf_pc_of_iff ?_
      rw [Bool.and_eq_true, Bool.and_eq_true, bne_iff_ne, bne_iff_ne, Ne, Ne, s.cpDiff_eq_zero_iff]
  exact ⟨⟨_, rfl, holds stepUp false⟩, ⟨_, rfl, holds stepDown false⟩, ⟨_, rfl, holds stepUp true⟩,
    ⟨_, rfl, holds stepDown true⟩⟩

end Sys2Proof.Machine
end

section
/-! PROOFS. The formulas of 40 R176 for an addition, and carry, half-carry and overflow of both, on bit vectors. -/

namespace Sys2Proof

open Sys2Proof.Machine

variable {w : Nat} (h : Nat) (a b : BitVec w) (c : Bool)

theorem Rule.wrap_sum : Rule.wrap w (Rule.sum a b c) = addRes a b c := by
  simp [Rule.wrap, Rule.sum, addRes, carryIn, BitVec.ofInt_add]

theorem Rule.addC_eq_addCarry : Rule.addC a b c = addCarry a b c := by
  rw [Rule.addC, addCarry, Rule.sum, decide_eq_decide]
  exact_mod_cast Iff.rfl

theorem Rule.addH_eq_addHalf : Rule.addH h a b c = addHalf h a b c := rfl

theorem Rule.addV_eq_addOverflow : Rule.addV a b c = addOverflow a b c := by
  rw [Rule.addV, addOverflow, ← BitVec.msb_eq_getLsbD_last, ← BitVec.msb_eq_getLsbD_last, Rule.sign_eq_msb,
    Rule.wrap_sum, Bool.decide_and, decide_not, beq_eq_decide, bne, beq_eq_decide]

theorem Rule.subC_eq_subCarry : Rule.subC a b c = subCarry a b c := by
  rw [Rule.subC, subCarry, Rule.diff, decide_eq_decide]
  omega

theorem Rule.subH_eq_subHalf : Rule.subH h a b c = subHalf h a b c := by
  rw [Rule.subH, subHalf, decide_eq_decide]
  omega

theorem Rule.subV_eq_subOverflow : Rule.subV a b c = subOverflow a b c := by
  rw [Rule.subV, subOverflow, ← BitVec.msb_eq_getLsbD_last, ← BitVec.msb_eq_getLsbD_last, Rule.sign_eq_msb,
    Rule.wrap_diff, Bool.decide_and, decide_not, decide_not, bne, beq_eq_decide, bne, beq_eq_decide]

variable {h a b c} {f : Flags} {n : Bool}

/-- The flags of an addition, from bit vectors to exact integers. -/
theorem Machine.FlagsAre.sum
    (hf : FlagsAre f (addRes a b c).msb (addRes a b c == 0) (addHalf h a b c) (addOverflow a b c) n (addCarry a b c)) :
    FlagsAre f (Rule.sign w (Rule.sum a b c)) (Rule.zero w (Rule.sum a b c)) (Rule.addH h a b c) (Rule.addV a b c) n
      (Rule.addC a b c) := by
  rwa [Rule.sign_eq_msb, Rule.zero_eq_beq, Rule.wrap_sum, Rule.addH_eq_addHalf, Rule.addV_eq_addOverflow,
    Rule.addC_eq_addCarry]

/-- The flags of a subtraction, from bit vectors to exact integers. -/
theorem Machine.FlagsAre.diff
    (hf : FlagsAre f (subRes a b c).msb (subRes a b c == 0) (subHalf h a b c) (subOverflow a b c) n (subCarry a b c)) :
    FlagsAre f (Rule.sign w (Rule.diff a b c)) (Rule.zero w (Rule.diff a b c)) (Rule.subH h a b c) (Rule.subV a b c) n
      (Rule.subC a b c) := by
  rwa [Rule.sign_eq_msb, Rule.zero_eq_beq, Rule.wrap_diff, Rule.subH_eq_subHalf, Rule.subV_eq_subOverflow,
    Rule.subC_eq_subCarry]

/-- S, Z and parity of a byte (40 R175), from the model's parity to the rule's. -/
theorem Machine.FlagsAre.logic {r : Byte} {h c : Bool} (hf : FlagsAre f r.msb (r == 0) h (parityEven r) n c) :
    LogicFlags f r h n c := by
  rwa [LogicFlags, ← msb_eq_getLsbD, ← parityEven_eq]

end Sys2Proof
end

section
/-! PROOFS. The five operand forms of the 8-bit ALU (spec 43): their encodings, and that each is one `State.alu`. -/

namespace Sys2Proof.Machine

/-! ## The instructions of an ALU operation -/

/-- The index in the alu table (30 R114). -/
def AluOp.code : AluOp → Nat
  | .add => 0 | .adc => 1 | .sub => 2 | .sbc => 3 | .and => 4 | .xor => 5 | .or => 6 | .cp => 7

def AluOp.onReg : AluOp → Reg8 → Instr
  | .add => .addAR | .adc => .adcAR | .sub => .subR | .sbc => .sbcAR
  | .and => .andR | .xor => .xorR | .or => .orR | .cp => .cpR

def AluOp.onHalf : AluOp → Idx → Half → Instr
  | .add => .addAXHalf | .adc => .adcAXHalf | .sub => .subXHalf | .sbc => .sbcAXHalf
  | .and => .andXHalf | .xor => .xorXHalf | .or => .orXHalf | .cp => .cpXHalf

def AluOp.onHl : AluOp → Instr
  | .add => .addAAtHl | .adc => .adcAAtHl | .sub => .subAtHl | .sbc => .sbcAAtHl
  | .and => .andAtHl | .xor => .xorAtHl | .or => .orAtHl | .cp => .cpAtHl

def AluOp.onXd : AluOp → Idx → Byte → Instr
  | .add => .addAAtXd | .adc => .adcAAtXd | .sub => .subAtXd | .sbc => .sbcAAtXd
  | .and => .andAtXd | .xor => .xorAtXd | .or => .orAtXd | .cp => .cpAtXd

def AluOp.onImm : AluOp → Byte → Instr
  | .add => .addAN | .adc => .adcAN | .sub => .subN | .sbc => .sbcAN
  | .and => .andN | .xor => .xorN | .or => .orN | .cp => .cpN

variable (op : AluOp) (x : Idx) (half : Half) (q : Reg8) (d v : Byte)

theorem decodes_aluReg : Decodes [opXYZ 2 op.code q.code] (op.onReg q) := by
  cases op <;> exact decodes_of_encode rfl rfl rfl

theorem decodes_aluHalf : Decodes [x.prefixByte, opXYZ 2 op.code half.code] (op.onHalf x half) := by
  cases op <;> exact decodes_of_encode rfl rfl rfl

theorem decodes_aluHl : Decodes [opXYZ 2 op.code 6] op.onHl := by
  cases op <;> exact decodes_of_encode rfl rfl rfl

theorem decodes_aluXd : Decodes [x.prefixByte, opXYZ 2 op.code 6, d] (op.onXd x d) := by
  cases op <;> exact decodes_of_encode rfl rfl rfl

theorem decodes_aluImm : Decodes [opXYZ 3 op.code 6, v] (op.onImm v) := by
  cases op <;> exact decodes_of_encode rfl rfl rfl

/-! ## The operand read -/

/-- `s` after some bus operations that moved no byte to memory or to a register: what reading an operand leaves. -/
def State.afterOps (s : State) (ops : List BusOp) : State :=
  { s with toSurface := s.toSurface.operations ops, trace := { s.trace with bus := s.trace.bus ++ ops } }

variable (s : State)

theorem State.afterOps_nil : s.afterOps [] = s := by
  rw [State.afterOps, List.append_nil]
  rfl

theorem State.aluAt_eq (a : Word) : s.aluAt op a = (s.afterOps [.readMemory a (s.peek a)]).alu op (s.peek a) := rfl

theorem State.alu_afterOps_bus (ops : List BusOp) : Bus s ((s.afterOps ops).alu op v) ops := by
  cases op <;> exact ⟨rfl, rfl⟩

/-! ## The forms -/

theorem exec_aluReg : exec (op.onReg q) s = .next (s.alu op (s.reg q)) := by cases op <;> rfl
theorem exec_aluHalf : exec (op.onHalf x half) s = .next (s.alu op (s.half x half)) := by cases op <;> rfl
theorem exec_aluHl : exec op.onHl s = .next (s.aluAt op s.hl) := by cases op <;> rfl
theorem exec_aluXd : exec (op.onXd x d) s = .next (s.aluAt op (s.ea x d)) := by cases op <;> rfl
theorem exec_aluImm : exec (op.onImm v) s = .next (s.alu op v) := by cases op <;> rfl

/-- What the operation does to any operand, however it was read, each of its forms does to its own. -/
theorem aluForms {P : State → Byte → State → Prop} (hP : ∀ s ops v, P s v ((s.afterOps ops).alu op v)) :
    AluForms op.code op.onReg op.onHalf op.onHl op.onXd op.onImm P := by
  have direct (s : State) (v : Byte) : P s v (s.alu op v) ∧ Bus s (s.alu op v) [] := by
    have h := And.intro (hP s [] v) (s.alu_afterOps_bus op v [])
    rwa [s.afterOps_nil] at h
  have read (s : State) (a : Word) :
      P s (s.peek a) (s.aluAt op a) ∧ Bus s (s.aluAt op a) [.readMemory a (s.peek a)] := by
    rw [s.aluAt_eq]
    exact ⟨hP s _ _, s.alu_afterOps_bus op _ _⟩
  exact ⟨decodes_aluReg op, decodes_aluHalf op, decodes_aluHl op, decodes_aluXd op, decodes_aluImm op, fun s =>
    ⟨fun q => ⟨_, exec_aluReg op q s, direct s _⟩, fun x h => ⟨_, exec_aluHalf op x h s, direct s _⟩,
      ⟨_, exec_aluHl op s, read s _⟩, fun x d => ⟨_, exec_aluXd op x d s, read s _⟩,
      fun v => ⟨_, exec_aluImm op v s, direct s v⟩⟩⟩

end Sys2Proof.Machine
end

section
/-! PROOFS. The 8-bit ALU (spec 43 R260 to R267). -/

namespace Sys2Proof.Machine

variable (s : State) (ops : List BusOp) (r v : Byte) (w : FlagWrite)

theorem State.afterOps_writeA_frame :
    SameBut [.reg .a, .flags, .draws, .bus] s (((s.afterOps ops).setReg .a r).writeFlags w) := by
  obtain ⟨surface, main⟩ := s
  cases main
  rfl

theorem State.afterOps_writeFlags_frame : SameBut [.flags, .draws, .bus] s ((s.afterOps ops).writeFlags w) := by
  obtain ⟨surface, main⟩ := s
  cases main
  rfl

/-- Settles O14: each form is one `aluAdd`, with carry-in 0 or C. -/
theorem addToAccumulator : Obligations.AddToAccumulator := by
  unfold Obligations.AddToAccumulator
  intro effect
  have holds (s : State) (ops : List BusOp) (v : Byte) (carry : State → Bool) :
      effect carry s v ((s.afterOps ops).aluAdd v (carry s)) := by
    refine ⟨(Rule.wrap_sum ..).symm, .sum (State.writeFlags_flags ..), ?_, s.afterOps_writeA_frame ops _ _⟩
    rw [Rule.wrap_sum]
    exact State.writeFlags_undoc _ (addFlags8 s.main.a v (carry s))
  exact ⟨aluForms .add fun s ops v => holds s ops v fun _ => false,
    aluForms .adc fun s ops v => holds s ops v (·.main.f.c)⟩

/-- Settles O15: SUB and SBC are `aluSub` with borrow-in 0 or C; CP writes the flags of SUB and no A. -/
theorem subtractAndCompare : Obligations.SubtractAndCompare := by
  unfold Obligations.SubtractAndCompare
  intro flags effect
  have holds (s : State) (ops : List BusOp) (v : Byte) (carry : State → Bool) :
      effect carry s v ((s.afterOps ops).aluSub v (carry s)) := by
    refine ⟨(Rule.wrap_diff ..).symm, .diff (State.writeFlags_flags ..), ?_, s.afterOps_writeA_frame ops _ _⟩
    rw [Rule.wrap_diff]
    exact State.writeFlags_undoc _ (subFlags8 s.main.a v (carry s))
  exact ⟨aluForms .sub fun s ops v => holds s ops v fun _ => false,
    aluForms .sbc fun s ops v => holds s ops v (·.main.f.c),
    aluForms .cp fun s ops v =>
      ⟨.diff (State.writeFlags_flags ..), State.writeFlags_undoc _ _, s.afterOps_writeFlags_frame ops _⟩⟩

/-- Settles O16: each form is one `aluLogic`. -/
theorem logicInstructions : Obligations.LogicInstructions := by
  unfold Obligations.LogicInstructions
  intro effect
  have holds (s : State) (ops : List BusOp) (v : Byte) (op : Byte → Byte → Byte) (h : Bool) :
      effect op h s v ((s.afterOps ops).aluLogic (op s.main.a v) h) :=
    ⟨rfl, .logic (State.writeFlags_flags ..), State.writeFlags_undoc _ _, s.afterOps_writeA_frame ops _ _⟩
  exact ⟨aluForms .and fun s ops v => holds s ops v (· &&& ·) true,
    aluForms .xor fun s ops v => holds s ops v (· ^^^ ·) false,
    aluForms .or fun s ops v => holds s ops v (· ||| ·) false⟩

end Sys2Proof.Machine
end

section
/-! PROOFS. The flag write over a state in which other parts have been written (40 R174, R177), and instructions that
write one operand and F. -/

namespace Sys2Proof.Machine

/-- F of `t` is what the flag write `w` makes of F in `s` (40 R174, R177). -/
def FlagsWritten (s : State) (w : FlagWrite) (t : State) : Prop :=
  FlagsAre t.main.f (w.s.getD s.main.f.s) (w.z.getD s.main.f.z) (w.h.getD s.main.f.h) (w.pv.getD s.main.f.pv)
    (w.n.getD s.main.f.n) (w.c.getD s.main.f.c) ∧
  UndocAre s t w.z5 w.z3

/-- A flag write after updates that left F and the parameters. -/
theorem State.writeFlags_written {s u : State} (hc : u.cfg = s.cfg) (hf : u.main.f = s.main.f) (w : FlagWrite) :
    FlagsWritten s w (u.writeFlags w) := by
  have h := And.intro (u.writeFlags_flags w) (u.writeFlags_undoc w)
  unfold UndocAre at h
  rwa [hf, hc] at h

section
variable (s : State) (w : FlagWrite)

@[simp] theorem State.writeFlags_half (x : Idx) (g : Half) : (s.writeFlags w).half x g = s.half x g := by
  cases x <;> rfl

theorem State.setReg_writeFlags_frame (q : Reg8) (v : Byte) :
    SameBut [.reg q, .flags, .draws] s ((s.setReg q v).writeFlags w) := by
  obtain ⟨surface, main⟩ := s
  cases q <;> rfl

theorem State.setHalf_writeFlags_frame (x : Idx) (h : Half) (v : Byte) :
    SameBut [.idx x, .flags, .draws] s ((s.setHalf x h v).writeFlags w) := by
  cases x <;> cases h <;> rfl

theorem State.setPair_writeFlags_frame (rp : Rp) (v : Word) :
    SameBut (.flags :: .draws :: pairParts rp) s ((s.setPair rp v).writeFlags w) := by
  cases rp <;> rfl

theorem State.setIdx_writeFlags_frame (x : Idx) (v : Word) :
    SameBut [.flags, .draws, .idx x] s ((s.setIdx x v).writeFlags w) := by
  cases x <;> rfl

end

section
variable {s : State} {i : Instr} {w : FlagWrite} {v : Byte} {Q : State → Prop} (hQ : ∀ t, FlagsWritten s w t → Q t)
include hQ

theorem completes_setReg_writeFlags {q : Reg8} (h : exec i s = .next ((s.setReg q v).writeFlags w)) :
    Completes i s fun t => t.reg q = v ∧ Q t ∧ SameBut [.reg q, .flags, .draws] s t :=
  ⟨_, h, (State.writeFlags_reg _ w q).trans (s.reg_setReg_same q v),
    hQ _ (State.writeFlags_written (s.setReg_cfg q v) (s.setReg_f q v) w), s.setReg_writeFlags_frame w q v⟩

theorem completes_setHalf_writeFlags {x : Idx} {k : Half} (h : exec i s = .next ((s.setHalf x k v).writeFlags w)) :
    Completes i s fun t =>
      (∀ g, t.half x g = if g = k then v else s.half x g) ∧ Q t ∧ SameBut [.idx x, .flags, .draws] s t := by
  have hf := congrArg Bank.f (s.setHalf_main x k v)
  exact ⟨_, h, fun g => (State.writeFlags_half _ w x g).trans (s.half_setHalf x k g v),
    hQ _ (State.writeFlags_written (s.setHalf_cfg x k v) hf w), s.setHalf_writeFlags_frame w x k v⟩

theorem completes_rewrite_writeFlags {a : Word} (h : exec i s = .next (((s.memRead a).2.memWrite a v).writeFlags w)) :
    Completes i s fun t => Rewrites s a v [.flags, .draws] t ∧ Q t := by
  obtain ⟨hstore, hbus, -⟩ := s.readWrite_rewrites a v
  exact ⟨_, h, ⟨hstore.of_eq rfl rfl, hbus.of_eq rfl rfl, rfl⟩, hQ _ (State.writeFlags_written rfl rfl w)⟩

end

end Sys2Proof.Machine
end

section
/-! PROOFS. Increments and decrements (spec 43 R268 to R271). -/

namespace Sys2Proof.Machine

/-! ## H and V of an addition and a subtraction of 1 -/

theorem addHalf_one (v : Byte) : addHalf 4 v 1 false = decide (v &&& 0x0F#8 = 0x0F#8) := by
  revert v
  decide

theorem addOverflow_one (v : Byte) : addOverflow v 1 false = decide (v = 0x7F#8) := by
  revert v
  decide

theorem subHalf_one (v : Byte) : subHalf 4 v 1 false = decide (v &&& 0x0F#8 = 0) := by
  revert v
  decide

theorem subOverflow_one (v : Byte) : subOverflow v 1 false = decide (v = 0x80#8) := by
  revert v
  decide

/-! ## Bytes and pairs -/

/-- Settles O17: each form writes its operand, and F as ADD or SUB of 1 would but for C. -/
theorem incrementDecrementBytes : Obligations.IncrementDecrementBytes := by
  refine ⟨fun q => ⟨decodes_of_encode rfl rfl rfl, decodes_of_encode rfl rfl rfl⟩,
    fun x h => ⟨decodes_of_encode rfl rfl rfl, decodes_of_encode rfl rfl rfl⟩, decodes_of_encode rfl rfl rfl,
    decodes_of_encode rfl rfl rfl, fun x d => ⟨decodes_of_encode rfl rfl rfl, decodes_of_encode rfl rfl rfl⟩,
    fun s => ?_⟩
  intro inc dec
  have hinc (v : Byte) (t : State) (h : FlagsWritten s (incFlags v) t) : inc v t := by
    dsimp only [inc]
    rwa [Rule.sign_eq_msb, Rule.zero_eq_beq, Rule.wrap_sum, ← addHalf_one, ← addOverflow_one]
  have hdec (v : Byte) (t : State) (h : FlagsWritten s (decFlags v) t) : dec v t := by
    dsimp only [dec]
    rwa [Rule.sign_eq_msb, Rule.zero_eq_beq, Rule.wrap_diff, ← subHalf_one, ← subOverflow_one]
  exact ⟨fun q => completes_setReg_writeFlags (hinc _) rfl, fun q => completes_setReg_writeFlags (hdec _) rfl,
    fun x h => completes_setHalf_writeFlags (hinc _) rfl, fun x h => completes_setHalf_writeFlags (hdec _) rfl,
    completes_rewrite_writeFlags (hinc _) rfl, completes_rewrite_writeFlags (hdec _) rfl,
    fun x d => completes_rewrite_writeFlags (hinc _) rfl, fun x d => completes_rewrite_writeFlags (hdec _) rfl⟩

/-- Settles O18: each form is one `setPair` or one `setIdx`, and writes no flags. -/
theorem incrementDecrementPairs : Obligations.IncrementDecrementPairs :=
  ⟨fun _ => ⟨decodes_of_encode rfl rfl rfl, decodes_of_encode rfl rfl rfl⟩,
    fun _ => ⟨decodes_of_encode rfl rfl rfl, decodes_of_encode rfl rfl rfl⟩, fun s =>
    ⟨fun rp => ⟨_, rfl, s.pair_setPair_same rp _, s.setPair_frame rp _⟩,
      fun rp => ⟨_, rfl, s.pair_setPair_same rp _, s.setPair_frame rp _⟩,
      fun x => ⟨_, rfl, s.idx_setIdx_same x _, s.setIdx_frame x _⟩,
      fun x => ⟨_, rfl, s.idx_setIdx_same x _, s.setIdx_frame x _⟩⟩⟩

end Sys2Proof.Machine
end

section
/-! PROOFS. 16-bit arithmetic (spec 43 R272 to R274). -/

namespace Sys2Proof.Machine

/-- Settles O19: each form is one write of HL or X and one flag write; ADD keeps S, Z and PV. -/
theorem wordArithmetic : Obligations.WordArithmetic := by
  refine ⟨fun _ => ⟨decodes_of_encode rfl rfl rfl, decodes_of_encode rfl rfl rfl, decodes_of_encode rfl rfl rfl⟩,
    fun _ _ => decodes_of_encode rfl rfl rfl, rfl, fun s => ⟨fun _ => rfl, ?_⟩⟩
  intro undoc add c
  have hadd (a b : Word) (t : State) (h : FlagsWritten s (addFlags16 a b) t) : add a b t := by
    dsimp only [add, undoc]
    rwa [Rule.addH_eq_addHalf, Rule.addC_eq_addCarry, Rule.wrap_sum]
  have hl (v : Word) (w : FlagWrite) : FlagsWritten s w ((s.setPair .hl v).writeFlags w) :=
    State.writeFlags_written (s.setPair_cfg .hl v) (s.setPair_f .hl v) w
  refine ⟨fun rp => ⟨_, rfl, ?_, hadd _ _ _ (hl _ _), s.setPair_writeFlags_frame _ .hl _⟩,
    fun x rp => ⟨_, rfl, ?_, ?_, s.setIdx_writeFlags_frame _ x _⟩, fun rp => ⟨_, rfl, ?_⟩, fun rp => ⟨_, rfl, ?_⟩⟩
  · exact (s.pair_setPair_same .hl _).trans (Rule.wrap_sum ..).symm
  · rw [State.writeFlags_idx, State.idx_setIdx_same, Rule.wrap_sum]
  · exact hadd _ _ _ (State.writeFlags_written (s.setIdx_cfg x _) (congrArg Bank.f (s.setIdx_main x _)) _)
  · obtain ⟨hf, hu⟩ := hl (addRes s.hl (s.pair rp) c) (adcFlags16 s.hl (s.pair rp) c)
    refine ⟨(s.pair_setPair_same .hl _).trans (Rule.wrap_sum ..).symm, ?_, .sum hf, s.setPair_writeFlags_frame _ .hl _⟩
    dsimp only [undoc]
    rwa [Rule.wrap_sum]
  · obtain ⟨hf, hu⟩ := hl (subRes s.hl (s.pair rp) c) (sbcFlags16 s.hl (s.pair rp) c)
    refine ⟨(s.pair_setPair_same .hl _).trans (Rule.wrap_diff ..).symm, ?_, .diff hf, s.setPair_writeFlags_frame _ .hl _⟩
    dsimp only [undoc]
    rwa [Rule.wrap_diff]

end Sys2Proof.Machine
end

section
/-! PROOFS. DAA, CPL, NEG, SCF, CCF (spec 43 R275 to R279). -/

namespace Sys2Proof.Machine

/-! ## DAA -/

theorem lowNibble_eq (a : Byte) : lowNibble a = (a &&& 0x0F#8).toNat := by
  revert a
  decide

theorem daaCorr_eq (a : Byte) (h c : Bool) :
    daaCorr a h c = (if h = true ∨ a &&& 0x0F#8 > 9#8 then 0x06#8 else 0) |||
      (if c = true ∨ a > 0x99#8 then 0x60#8 else 0) := by
  simp [daaCorr, lowNibble_eq, BitVec.lt_def]

/-- Settles O20: DAA writes A and F once; its correction is that of R275. -/
theorem decimalAdjust : Obligations.DecimalAdjust := by
  refine ⟨decodes_of_encode rfl rfl rfl, fun s => ?_⟩
  intro a f low six sixty corr r
  have hcorr : daaCorr a f.h f.c = corr := daaCorr_eq a f.h f.c
  have hr : (if f.n then a - daaCorr a f.h f.c else a + daaCorr a f.h f.c) = r := by rw [hcorr]
  have hh : (if f.n then f.h && decide (lowNibble a < 6) else decide (lowNibble a > 9)) =
      if f.n then decide (f.h = true ∧ low < 6#8) else decide (low > 9#8) := by
    rw [lowNibble_eq, Bool.decide_and, Bool.decide_eq_true]
    rfl
  have hc : (f.c || decide (a.toNat > 0x99)) = decide sixty := by
    rw [Bool.decide_or, Bool.decide_eq_true]
    rfl
  refine ⟨_, rfl, hr, ?_, ?_, s.setReg_writeFlags_frame _ .a _⟩
  · rw [← hr, ← hh, ← hc]
    exact .logic (State.writeFlags_flags ..)
  · rw [← hr]
    exact State.writeFlags_undoc _ _

/-! ## CPL, NEG, SCF, CCF -/

theorem edDetails_neg : ∀ y : Fin 8, edDetails (opXYZ 1 y 4) = { mnemonic := .NEG, dest := .A } := by decide

theorem decodes_neg (y : Fin 8) : Decodes [0xED#8, opXYZ 1 y 4] .neg := by
  refine decodes_encED (ops := []) ?_
  rw [edDetails_neg]
  exact .none rfl rfl rfl

theorem subOverflow_zero_left (a : Byte) : subOverflow 0 a false = decide (a = 0x80#8) := by
  revert a
  decide

theorem subCarry_zero_left (a : Byte) : subCarry 0 a false = decide (a ≠ 0) := by
  revert a
  decide

theorem completes_neg (s : State) : Completes .neg s fun t =>
    let r := Rule.diff 0 s.main.a false
    t.main.a = Rule.wrap 8 r ∧
      FlagsAre t.main.f (Rule.sign 8 r) (Rule.zero 8 r) (Rule.subH 4 0 s.main.a false) (decide (s.main.a = 0x80#8)) true
        (decide (s.main.a ≠ 0)) ∧
      UndocAre s t (t.main.a.getLsbD 5) (t.main.a.getLsbD 3) ∧ SameBut [.reg .a, .flags, .draws] s t := by
  refine ⟨_, rfl, (Rule.wrap_diff ..).symm, ?_, State.writeFlags_undoc _ _, s.setReg_writeFlags_frame _ .a _⟩
  rw [← subOverflow_zero_left, ← subCarry_zero_left, ← Rule.subV_eq_subOverflow, ← Rule.subC_eq_subCarry]
  exact .diff (State.writeFlags_flags ..)

/-- Settles O21: CPL and NEG write A and F once, SCF and CCF F alone. -/
theorem complementNegateCarry : Obligations.ComplementNegateCarry :=
  ⟨decodes_of_encode rfl rfl rfl, decodes_of_encode rfl rfl rfl, decodes_of_encode rfl rfl rfl, decodes_neg, fun s =>
    ⟨⟨_, rfl, rfl, State.writeFlags_flags .., State.writeFlags_undoc _ _, s.setReg_writeFlags_frame _ .a _⟩,
      completes_neg s,
      ⟨_, rfl, s.writeFlags_flags _, s.writeFlags_undoc _, s.writeFlags_frame _⟩,
      ⟨_, rfl, s.writeFlags_flags _, s.writeFlags_undoc _, s.writeFlags_frame _⟩⟩⟩

end Sys2Proof.Machine
end

section
/-! PROOFS. The rotates and shifts of 44 R290: their instructions, and that the model's function is the statements'. -/

namespace Sys2Proof.Machine

/-! ## The instructions of a rotate or shift -/

/-- The index in the rot table (30 R114). -/
def RotOp.code : RotOp → Nat
  | .rlc => 0 | .rrc => 1 | .rl => 2 | .rr => 3 | .sla => 4 | .sra => 5 | .sll => 6 | .srl => 7

/-- The function as the statements give it. -/
def RotOp.rule : RotOp → Byte → Bool → Byte × Bool
  | .rlc => Rule.rlc | .rrc => Rule.rrc | .rl => Rule.rl | .rr => Rule.rr
  | .sla => Rule.sla | .sra => Rule.sra | .sll => Rule.sll | .srl => Rule.srl

def RotOp.onReg : RotOp → Reg8 → Instr
  | .rlc => .rlcR | .rrc => .rrcR | .rl => .rlR | .rr => .rrR
  | .sla => .slaR | .sra => .sraR | .sll => .sllR | .srl => .srlR

def RotOp.onHl : RotOp → Instr
  | .rlc => .rlcAtHl | .rrc => .rrcAtHl | .rl => .rlAtHl | .rr => .rrAtHl
  | .sla => .slaAtHl | .sra => .sraAtHl | .sll => .sllAtHl | .srl => .srlAtHl

def RotOp.onXd : RotOp → Idx → Byte → Instr
  | .rlc => .rlcAtXd | .rrc => .rrcAtXd | .rl => .rlAtXd | .rr => .rrAtXd
  | .sla => .slaAtXd | .sra => .sraAtXd | .sll => .sllAtXd | .srl => .srlAtXd

def RotOp.onCopy : RotOp → Idx → Byte → Reg8 → Instr
  | .rlc => .rlcAlt | .rrc => .rrcAlt | .rl => .rlAlt | .rr => .rrAlt
  | .sla => .slaAlt | .sra => .sraAlt | .sll => .sllAlt | .srl => .srlAlt

variable (op : RotOp) (x : Idx) (q : Reg8) (d : Byte)

theorem decodes_rotReg : Decodes [0xCB#8, opXYZ 0 op.code q.code] (op.onReg q) := by
  cases op <;> exact decodes_of_encode rfl rfl rfl

theorem decodes_rotHl : Decodes [0xCB#8, opXYZ 0 op.code 6] op.onHl := by
  cases op <;> exact decodes_of_encode rfl rfl rfl

theorem decodes_rotXd : Decodes [x.prefixByte, 0xCB#8, d, opXYZ 0 op.code 6] (op.onXd x d) := by
  cases op <;> exact decodes_of_encode rfl rfl rfl

theorem decodes_rotCopy : Decodes [x.prefixByte, 0xCB#8, d, opXYZ 0 op.code q.code] (op.onCopy x d q) := by
  cases op <;> exact decodes_of_encode rfl rfl rfl

/-- A shift with the bits it brings in, as the statements write it, is the model's `rotate`. -/
theorem RotOp.rule_eq_rotate : op.rule = rotate op := by
  funext v c
  revert v c
  cases op <;> decide

variable (s : State)

theorem exec_rotReg : exec (op.onReg q) s = .next (s.rotReg op q) := by cases op <;> rfl
theorem exec_rotHl : exec op.onHl s = .next (s.rotAt op s.hl) := by cases op <;> rfl
theorem exec_rotXd : exec (op.onXd x d) s = .next (s.rotAt op (s.ea x d)) := by cases op <;> rfl
theorem exec_rotCopy : exec (op.onCopy x d q) s = .next (s.rotAlt op (s.ea x d) q) := by cases op <;> rfl

/-! ## Flags -/

variable {s} {t : State}

/-- A flag write of S, Z and parity, from the model's parity to the rule's (40 R175). -/
theorem FlagsWritten.szp {r : Byte} {h : Bool} {c : Option Bool} (hw : FlagsWritten s (szpFlags r h c) t) :
    LogicFlags t.main.f r h false (c.getD s.main.f.c) ∧ UndocAre s t (r.getLsbD 5) (r.getLsbD 3) :=
  ⟨.logic hw.1, hw.2⟩

theorem RotFlags.of_written {o : Byte × Bool} (hw : FlagsWritten s (rotFlags o.1 o.2) t) : RotFlags s t o := hw.szp

end Sys2Proof.Machine
end

section
/-! PROOFS. Instructions that write a byte of memory and a register, and F or not: the register-copy forms, RLD and RRD. -/

namespace Sys2Proof.Machine

variable {s : State} {i : Instr} {a : Word} {v r : Byte} {q : Reg8}

theorem completes_rewrite_setReg (h : exec i s = .next (((s.memRead a).2.memWrite a v).setReg q r)) :
    Completes i s fun t => Rewrites s a v [.reg q] t ∧ t.reg q = r := by
  obtain ⟨hstore, hbus, -⟩ := s.readWrite_rewrites a v
  refine ⟨_, h, ⟨hstore.of_eq rfl rfl, hbus.of_eq rfl rfl, ?_⟩, State.reg_setReg_same _ q r⟩
  cases q <;> rfl

theorem completes_rewrite_setReg_writeFlags {w : FlagWrite} {Q : State → Prop} (hQ : ∀ t, FlagsWritten s w t → Q t)
    (h : exec i s = .next ((((s.memRead a).2.memWrite a v).setReg q r).writeFlags w)) :
    Completes i s fun t => Rewrites s a v [.reg q, .flags, .draws] t ∧ t.reg q = r ∧ Q t := by
  obtain ⟨hstore, hbus, -⟩ := s.readWrite_rewrites a v
  refine ⟨_, h, ⟨hstore.of_eq rfl rfl, hbus.of_eq rfl rfl, ?_⟩,
    (State.writeFlags_reg _ w q).trans (State.reg_setReg_same _ q r),
    hQ _ (State.writeFlags_written (State.setReg_cfg _ q r) (State.setReg_f _ q r) w)⟩
  obtain ⟨surface, main⟩ := s
  cases q <;> rfl

end Sys2Proof.Machine
end

section
/-! PROOFS. Rotates and shifts of A, of a register and of (HL) (spec 44 R290 to R302). -/

namespace Sys2Proof.Machine

/-- Settles O22: each form is one `rotA`, and its flag write names neither S, Z nor PV. -/
theorem accumulatorRotates : Obligations.AccumulatorRotates := by
  refine ⟨decodes_of_encode rfl rfl rfl, decodes_of_encode rfl rfl rfl, decodes_of_encode rfl rfl rfl,
    decodes_of_encode rfl rfl rfl, fun s => ?_⟩
  intro effect
  have holds (op : RotOp) : effect op.rule (s.rotA op) := by
    rw [op.rule_eq_rotate]
    exact ⟨rfl, State.writeFlags_flags .., State.writeFlags_undoc _ _, s.setReg_writeFlags_frame _ .a _⟩
  exact ⟨⟨_, rfl, holds .rlc⟩, ⟨_, rfl, holds .rrc⟩, ⟨_, rfl, holds .rl⟩, ⟨_, rfl, holds .rr⟩⟩

theorem rotForms (op : RotOp) : RotForms op.code op.onReg op.onHl op.rule := by
  rw [op.rule_eq_rotate]
  exact ⟨decodes_rotReg op, decodes_rotHl op, fun s =>
    ⟨fun q => completes_setReg_writeFlags (fun _ => .of_written) (exec_rotReg op q s),
      completes_rewrite_writeFlags (fun _ => .of_written) (exec_rotHl op s)⟩⟩

/-- Settles O23: one proof for every function (`rotForms`). -/
theorem rotatesAndShifts : Obligations.RotatesAndShifts :=
  ⟨rotForms .rlc, rotForms .rrc, rotForms .rl, rotForms .rr, rotForms .sla, rotForms .sra, rotForms .sll, rotForms .srl⟩

end Sys2Proof.Machine
end

section
/-! PROOFS. BIT, RES and SET (spec 44 R303 to R305). -/

namespace Sys2Proof.Machine

variable (b : BitVec 3) (x : Idx) (d m : Byte)

/-! ## BIT -/

/-- BIT b,(X+d) has the entry of z = 6 for every z (30 R137). -/
theorem xcbEntry_bitTest :
    ∀ (b : BitVec 3) (z : Fin 8), xcbEntry x (opXYZ 1 b.toNat z) = xcbEntry x (opXYZ 1 b.toNat 6) := by
  cases x <;> decide

theorem decodes_bitAtXd (z : Fin 8) : Decodes [x.prefixByte, 0xCB#8, d, opXYZ 1 b.toNat z] (.bitAtXd b x d) := by
  have h6 : Decodes [x.prefixByte, 0xCB#8, d, opXYZ 1 b.toNat 6] (.bitAtXd b x d) := decodes_of_encode rfl rfl rfl
  intro rest
  calc decode (x.prefixByte :: 0xCB#8 :: d :: opXYZ 1 b.toNat z :: rest)
      = decode (x.prefixByte :: 0xCB#8 :: d :: opXYZ 1 b.toNat 6 :: rest) := by
        rw [decode_XCB, decode_XCB, xcbEntry_bitTest]
    _ = .ok (.bitAtXd b x d, rest) := h6 rest

/-- The flags of BIT (44 R303): C is kept, S and PV are undocumented. -/
def BitFlags (s t : State) : Prop :=
  t.main.f.z = !m.getLsbD b.toNat ∧ t.main.f.h = true ∧ t.main.f.n = false ∧ t.main.f.c = s.main.f.c ∧
    UndocSPv s t (m.getLsbD b.toNat && decide (b = 7)) (!m.getLsbD b.toNat) ∧ UndocAre s t (m.getLsbD 5) (m.getLsbD 3)

theorem State.bitTest_flags (s : State) : BitFlags b m s (s.bitTest b m) :=
  ⟨rfl, rfl, rfl, rfl, s.writeFlagsUndoc_spv _ _ _, s.writeFlagsUndoc_undoc _ _ _⟩

/-- What has the F and the parameters of the state in which the flags are written. -/
theorem BitFlags.from_eq {b : BitVec 3} {m : Byte} {s u t : State} (h : BitFlags b m u t) (hc : u.cfg = s.cfg)
    (hf : u.main.f = s.main.f) : BitFlags b m s t := by
  unfold BitFlags UndocSPv UndocAre at h ⊢
  rwa [← hc, ← hf]

theorem completes_bitTestAt {b : BitVec 3} {s : State} {i : Instr} {a : Word}
    (h : exec i s = .next (s.bitTestAt b a)) : Completes i s fun t =>
      BitFlags b (s.peek a) s t ∧ Bus s t [.readMemory a (s.peek a)] ∧ SameBut [.flags, .draws, .bus] s t := by
  have hbus : Bus s (s.memRead a).2 [.readMemory a (s.peek a)] := ⟨s.memRead_bus a, rfl⟩
  refine ⟨_, h, (State.bitTest_flags b _ (s.memRead a).2).from_eq rfl rfl, hbus.of_eq rfl rfl, ?_⟩
  obtain ⟨surface, main⟩ := s
  rfl

/-- Settles O24: each form is one `bitTest`, after a read where the operand is in memory. -/
theorem bitTests : Obligations.BitTests :=
  ⟨fun _ _ => decodes_of_encode rfl rfl rfl, fun _ => decodes_of_encode rfl rfl rfl, decodes_bitAtXd, fun s b =>
    ⟨fun _ => ⟨_, rfl, s.bitTest_flags b _, s.writeFlagsUndoc_frame _ _ _⟩, completes_bitTestAt rfl,
      fun _ _ => completes_bitTestAt rfl⟩⟩

/-! ## RES and SET -/

theorem resBit_getLsbD {k : Nat} (hk : k < 8) :
    (resBit b m).getLsbD k = if k = b.toNat then false else m.getLsbD k := by
  rw [resBit, ← BitVec.twoPow_eq, BitVec.getLsbD_and, BitVec.getLsbD_not, BitVec.getLsbD_twoPow]
  by_cases h : k = b.toNat
  · simp [h, b.isLt]
  · simp [h, hk, Ne.symm h]

theorem setBit_getLsbD (k : Nat) : (setBit b m).getLsbD k = if k = b.toNat then true else m.getLsbD k := by
  rw [setBit, ← BitVec.twoPow_eq, BitVec.getLsbD_or, BitVec.getLsbD_twoPow]
  by_cases h : k = b.toNat
  · simp [h, b.isLt]
  · simp [h, Ne.symm h]

/-- Settles O25: each form is one `setReg` or one `modifyAt`, of a byte that differs in one bit. -/
theorem resetAndSetBits : Obligations.ResetAndSetBits := by
  refine ⟨fun b q => ⟨decodes_of_encode rfl rfl rfl, decodes_of_encode rfl rfl rfl⟩,
    fun b => ⟨decodes_of_encode rfl rfl rfl, decodes_of_encode rfl rfl rfl⟩, fun s b => ?_⟩
  intro only
  have hres (m : Byte) : only false m (resBit b m) := fun _ hk => resBit_getLsbD b m hk
  have hset (m : Byte) : only true m (setBit b m) := fun k _ => setBit_getLsbD b m k
  refine ⟨fun q => ⟨_, rfl, ?_, s.setReg_frame q _⟩, fun q => ⟨_, rfl, ?_, s.setReg_frame q _⟩,
    ⟨_, rfl, _, hres _, s.modifyAt_rewrites s.hl _⟩, ⟨_, rfl, _, hset _, s.modifyAt_rewrites s.hl _⟩⟩
  · rw [State.reg_setReg_same]
    exact hres _
  · rw [State.reg_setReg_same]
    exact hset _

end Sys2Proof.Machine
end

section
/-! PROOFS. The DDCB/FDCB forms: rotates, RES and SET of (X+d), and their register copies (spec 44 R306 to R317). -/

namespace Sys2Proof.Machine

theorem rotIndexed (op : RotOp) : RotIndexed op.code op.onXd op.rule := by
  rw [op.rule_eq_rotate]
  exact ⟨fun x d => decodes_rotXd op x d, fun s x d =>
    completes_rewrite_writeFlags (fun _ => .of_written) (exec_rotXd op x d s)⟩

/-- Settles O26: one proof for every function (`rotIndexed`); RES and SET are one `modifyAt`. -/
theorem indexedRotatesAndBits : Obligations.IndexedRotatesAndBits :=
  ⟨rotIndexed .rlc, rotIndexed .rrc, rotIndexed .rl, rotIndexed .rr, rotIndexed .sla, rotIndexed .sra, rotIndexed .sll,
    rotIndexed .srl, fun _ _ _ => ⟨decodes_of_encode rfl rfl rfl, decodes_of_encode rfl rfl rfl⟩, fun s b x d =>
    ⟨⟨_, rfl, s.modifyAt_rewrites (s.ea x d) (resBit b)⟩, ⟨_, rfl, s.modifyAt_rewrites (s.ea x d) (setBit b)⟩⟩⟩

theorem rotCopies (op : RotOp) : RotCopies op.code op.onCopy op.rule := by
  rw [op.rule_eq_rotate]
  exact ⟨fun x d q => decodes_rotCopy op x q d, fun s x d q =>
    completes_rewrite_setReg_writeFlags (fun _ => .of_written) (exec_rotCopy op x q d s)⟩

/-- Settles O27: one proof for every function (`rotCopies`); RES_ALT and SET_ALT write the byte and the register, not F. -/
theorem registerCopyForms : Obligations.RegisterCopyForms :=
  ⟨rotCopies .rlc, rotCopies .rrc, rotCopies .rl, rotCopies .rr, rotCopies .sla, rotCopies .sra, rotCopies .sll,
    rotCopies .srl, fun _ _ _ _ => ⟨decodes_of_encode rfl rfl rfl, decodes_of_encode rfl rfl rfl⟩, fun _ _ _ _ _ =>
    ⟨completes_rewrite_setReg rfl, completes_rewrite_setReg rfl⟩⟩

end Sys2Proof.Machine
end

section
/-! PROOFS. RLD and RRD (spec 44 R318, R319). -/

namespace Sys2Proof.Machine

/-! ## Nibbles as masks and shifts -/

theorem joinNibbles_eq (hi lo : BitVec 4) : joinNibbles hi lo = (hi.setWidth 8 <<< 4) ||| lo.setWidth 8 := by
  revert hi lo
  decide

variable (v : Byte)

theorem hiNibble_setWidth : (hiNibble v).setWidth 8 = v >>> 4 := by
  revert v
  decide

theorem hiNibble_shiftLeft : (hiNibble v).setWidth 8 <<< 4 = v &&& 0xF0#8 := by
  revert v
  decide

theorem loNibble_setWidth : (loNibble v).setWidth 8 = v &&& 0x0F#8 := by
  revert v
  decide

theorem loNibble_shiftLeft : (loNibble v).setWidth 8 <<< 4 = v <<< 4 := by
  revert v
  decide

/-- Settles O28: each form writes the byte at HL, A and F; its nibbles are the statement's shifts and masks. -/
theorem digitRotates : Obligations.DigitRotates := by
  refine ⟨decodes_of_encode rfl rfl rfl, decodes_of_encode rfl rfl rfl, fun s => ?_⟩
  intro v a effect
  have holds {i : Instr} (m r : Byte) (h : exec i s =
      .next ((((s.memRead s.hl).2.memWrite s.hl m).setReg .a r).writeFlags (szpFlags r false none))) :
      Completes i s (effect m r) :=
    completes_rewrite_setReg_writeFlags (fun _ hw => hw.szp) h
  have hrld := holds (i := .rld) (joinNibbles (loNibble v) (loNibble a)) (joinNibbles (hiNibble a) (hiNibble v)) rfl
  have hrrd := holds (i := .rrd) (joinNibbles (loNibble a) (hiNibble v)) (joinNibbles (hiNibble a) (loNibble v)) rfl
  rw [joinNibbles_eq, joinNibbles_eq] at hrld hrrd
  rw [loNibble_shiftLeft, loNibble_setWidth, hiNibble_shiftLeft, hiNibble_setWidth] at hrld
  rw [loNibble_shiftLeft, hiNibble_setWidth, hiNibble_shiftLeft, loNibble_setWidth] at hrrd
  exact ⟨hrld, hrrd⟩

end Sys2Proof.Machine
end

section
/-! PROOFS. Relative jumps, calls, restarts and returns (spec 45 R323 to R333). -/

namespace Sys2Proof.Machine

variable {s u : State} {i : Instr}

/-- An instruction that does its work under a condition and leaves the state alone otherwise (45 R330). -/
theorem completes_conditional {b : Bool} {Q : State → Prop} (h : exec i s = .next (if b then u else s)) (hu : Q u) :
    Completes i s fun t => if b then Q t else t = s := by
  refine ⟨_, h, ?_⟩
  cases b with
  | true => exact hu
  | false => rfl

/-! ## JR, DJNZ -/

theorem decodes_jrCc {cc : Cond} (hcc : cc.isJr = true) (d : Byte) : Decodes [opXYZ 0 (4 + cc.code) 0, d] (.jrCc cc d) :=
  decodes_of_encode rfl hcc rfl

theorem State.branch_frame (s : State) (d : Byte) : SameBut [.pc] s (s.branch d) := s.setPc_frame _

theorem completes_jrCc (cc : Cond) (d : Byte) (s : State) : Completes (.jrCc cc d) s fun t =>
    t.pc = (if cc.holds s.main.f then s.pc + sext16 d else s.pc) ∧ SameBut [.pc] s t := by
  refine ⟨_, rfl, ?_⟩
  cases cc.holds s.main.f with
  | true => exact ⟨rfl, s.branch_frame d⟩
  | false => exact ⟨rfl, rfl⟩

/-- The decremented B is 0 exactly where B was 1. -/
theorem completes_djnz (d : Byte) (s : State) : Completes (.djnz d) s fun t =>
    t.main.b = s.main.b - 1 ∧ t.pc = (if s.main.b = 1 then s.pc else s.pc + sext16 d) ∧
      SameBut [.pc, .reg .b] s t := by
  refine ⟨_, rfl, ?_⟩
  by_cases hb : s.main.b = 1
  · have hzero : (s.main.b - 1 != 0) = false := by simp [hb]
    rw [hzero, if_pos hb]
    exact ⟨rfl, rfl, rfl⟩
  · have hnonzero : (s.main.b - 1 != 0) = true := bne_iff_ne.mpr (sub_ne_zero.mpr hb)
    rw [hnonzero, if_neg hb]
    exact ⟨rfl, rfl, rfl⟩

/-- Settles O30: a jump that is taken is one `branch`, which for DJNZ follows the write of B. By its definition `sext16 d` is
the target's `BitVec.ofInt 16 d.toInt`. -/
theorem relativeJumps : Obligations.RelativeJumps :=
  ⟨fun _ => decodes_of_encode rfl rfl rfl, fun _ d hcc => decodes_jrCc hcc d, fun _ => decodes_of_encode rfl rfl rfl,
    fun s d => ⟨⟨_, rfl, rfl, s.branch_frame d⟩, fun cc _ => completes_jrCc cc d s, completes_djnz d s⟩⟩

/-! ## CALL, RST -/

/-- The opcode and the target of RST by the y field (30 R118; 45 R333). -/
theorem opXYZ_rst : ∀ k : Fin 8,
    opXYZ 3 k 7 = 0xC7#8 ||| BitVec.ofNat 8 (8 * k) ∧ isRstTarget (BitVec.ofNat 8 (8 * k)) = true ∧
      zext16 (BitVec.ofNat 8 (8 * k)) = BitVec.ofNat 16 (8 * k) := by decide

theorem decodes_rstField (k : Fin 8) : Decodes [opXYZ 3 k 7] (.rst (BitVec.ofNat 8 (8 * k))) := by
  obtain ⟨hop, htarget, -⟩ := opXYZ_rst k
  rw [hop]
  exact decodes_rst htarget

theorem decodes_callCc (cc : Cond) (lo hi : Byte) :
    Decodes [opXYZ 3 cc.code 4, lo, hi] (.callCc cc (joinBytes hi lo)) :=
  decodes_of_encode_imm16 (pre := [opXYZ 3 cc.code 4]) (f := .callCc cc) (fun _ => ⟨rfl, rfl, rfl⟩) lo hi

theorem State.callTo_calls (s : State) (target : Word) :
    Pushes s (s.callTo target) s.pc ∧ (s.callTo target).pc = target ∧
      SameBut [.pc, .sp, .mem, .bus] s (s.callTo target) :=
  ⟨s.push16_pushes s.pc, rfl, rfl⟩

/-- Settles O31: CALL and RST are one `callTo`, under the condition where there is one. -/
theorem callsAndRestarts : Obligations.CallsAndRestarts := by
  refine ⟨decodes_of_encode_imm16 (pre := [0xCD#8]) (f := .call) fun _ => ⟨rfl, rfl, rfl⟩, decodes_callCc,
    decodes_rstField, fun s => ⟨fun nn => ⟨_, rfl, s.callTo_calls nn⟩,
      fun cc nn => completes_conditional rfl (s.callTo_calls nn), fun k => ⟨_, rfl, ?_⟩⟩⟩
  obtain ⟨-, -, htarget⟩ := opXYZ_rst k
  rw [htarget]
  exact s.callTo_calls _

/-! ## RET, RETN, RETI -/

theorem edDetails_retn : ∀ y : Fin 8, y ≠ 1 → edDetails (opXYZ 1 y 5) = { mnemonic := .RETN } := by decide

theorem decodes_retn {y : Fin 8} (hy : y ≠ 1) : Decodes [0xED#8, opXYZ 1 y 5] .retn := by
  refine decodes_encED (ops := []) ?_
  rw [edDetails_retn y hy]
  exact .none rfl rfl rfl

theorem State.popPc_returns (s : State) :
    (Pops s s.popPc ∧ s.popPc.pc = s.peek16 s.sp) ∧ SameBut [.pc, .sp, .bus] s s.popPc :=
  ⟨⟨s.pop16_pops, rfl⟩, rfl⟩

theorem State.returnInterrupt_returns (s : State) :
    (Pops s s.returnInterrupt ∧ s.returnInterrupt.pc = s.peek16 s.sp) ∧ s.returnInterrupt.iff1 = s.iff2 ∧
      SameBut [.pc, .sp, .bus, .iff1] s s.returnInterrupt :=
  ⟨⟨s.pop16_pops, rfl⟩, rfl, rfl⟩

/-- Settles O32: RET is one `popPc`, under the condition where there is one; RETN and RETI are one `returnInterrupt`. -/
theorem returnInstructions : Obligations.ReturnInstructions :=
  ⟨decodes_of_encode rfl rfl rfl, fun _ => decodes_of_encode rfl rfl rfl, fun _ => decodes_retn,
    decodes_of_encode rfl rfl rfl, fun s => ⟨⟨_, rfl, s.popPc_returns⟩,
      fun _ => completes_conditional rfl s.popPc_returns, ⟨_, rfl, s.returnInterrupt_returns⟩,
      ⟨_, rfl, s.returnInterrupt_returns⟩⟩⟩

end Sys2Proof.Machine
end

section
/-! PROOFS. RETN takes back what an NMI acknowledge put on the stack and in IFF2 (spec 45 R331; 60 R405). -/

namespace Sys2Proof.Machine

variable {s t : State}

/-- A stored word is read back where both its bytes can be written. -/
theorem StoresWord.peek16 {a v : Word} (h : StoresWord s t a v) (hlo : s.writable a = true)
    (hhi : s.writable (a + 1) = true) : t.peek16 a = v := by
  have hlow : t.peek a = loByte v := by rw [h a, if_pos ⟨rfl, hlo⟩]
  have hhigh : t.peek (a + 1) = hiByte v := by
    rw [h (a + 1), if_neg (fun hk => absurd hk.1 (by simp)), if_pos ⟨rfl, hhi⟩]
  rw [State.peek16, hlow, hhigh, joinBytes_hi_lo]

theorem State.enterNmi_stores (s : State) : StoresWord s s.enterNmi (s.sp - 2) s.pc :=
  ((s.nmiAcknowledged.push16_stores s.pc).from_eq rfl rfl).of_eq rfl rfl

theorem State.interruptCheck_of_nmi (h : s.nmiLatch = true) : s.interruptCheck = s.enterNmi := if_pos h

/-- Settles O50: the word RETN pops is the PC that the acknowledge pushed (`StoresWord.peek16`), and IFF2 holds the IFF1
from before it. -/
theorem retnUndoesNmiEntry : Obligations.RetnUndoesNmiEntry := by
  intro s _ hnmi hhi hlo
  have hsucc : s.sp - 2 + 1 = s.sp - 1 := by bv_omega
  obtain ⟨⟨⟨hsp, -⟩, hpc⟩, hiff1, -⟩ := s.enterNmi.returnInterrupt_returns
  refine ⟨s.enterNmi, s.enterNmi.returnInterrupt, State.interruptCheck_of_nmi hnmi, rfl, ?_, ?_, hiff1⟩
  · exact hpc.trans (s.enterNmi_stores.peek16 hlo (hsucc ▸ hhi))
  · exact hsp.trans (BitVec.sub_add_cancel s.sp 2)

end Sys2Proof.Machine
end

section
/-! PROOFS. Port output and the CPU control instructions (spec 46 R342, R343, R347 to R354). -/

namespace Sys2Proof.Machine

variable {s : State} {i : Instr}

/-! ## OUT -/

/-- An instruction that is one port write. -/
theorem completes_ioWrite {port : Word} {v : Byte} (h : exec i s = .next (s.ioWrite port v)) : Completes i s fun t =>
    Bus s t [.writeIo port v] ∧ t.trace.events = s.trace.events ++ [.write port v] ∧ SameBut [.bus, .events] s t :=
  ⟨_, h, ⟨s.ioWrite_bus port v, rfl⟩, s.ioWrite_events port v, s.ioWrite_frame port v⟩

/-- Settles O34: each form is one `ioWrite`. -/
theorem portOutput : Obligations.PortOutput :=
  ⟨fun _ => decodes_of_encode rfl rfl rfl, fun _ => decodes_of_encode rfl rfl rfl, decodes_of_encode rfl rfl rfl,
    fun _ => ⟨fun _ => completes_ioWrite rfl, fun _ => completes_ioWrite rfl, completes_ioWrite rfl⟩⟩

/-! ## HALT, DI, EI -/

/-- Settles O36: the entry of HALT names no operand, so a prefix leaves it; the HALT line is the halted state itself. -/
theorem haltAndInterruptEnables : Obligations.HaltAndInterruptEnables := by
  have hhalt : Decodes [0x76#8] .halt := decodes_of_encode rfl rfl rfl
  exact ⟨hhalt, fun x => decodes_X_of_plain x rfl rfl hhalt, decodes_of_encode rfl rfl rfl, decodes_of_encode rfl rfl rfl,
    fun _ => ⟨⟨_, rfl, rfl, rfl, rfl⟩, ⟨_, rfl, rfl, rfl, rfl⟩, ⟨_, rfl, rfl, rfl, rfl⟩⟩⟩

/-! ## IM, LD with I or R -/

/-- The entry of IM depends on the low two bits of y alone (30 R126). -/
theorem edDetails_imField :
    ∀ y : Fin 8, edDetails (opXYZ 1 y 6) = edDetails (opXYZ 1 (BitVec.ofNat 2 y).toNat 6) := by decide

theorem decodes_imField (y : Fin 8) : Decodes [0xED#8, opXYZ 1 y 6] (.im (BitVec.ofNat 2 y)) := fun rest =>
  calc decode (0xED#8 :: opXYZ 1 y 6 :: rest)
      = decode (0xED#8 :: opXYZ 1 (BitVec.ofNat 2 y).toNat 6 :: rest) := by
        rw [decode_ED, decode_ED, edDetails_imField]
    _ = .ok (.im (BitVec.ofNat 2 y), rest) := decodes_im _ rest

theorem imMode_table :
    ∀ c ∈ [(0#2, IntMode.mode0), (1#2, .mode0), (2#2, .mode1), (3#2, .mode2)], imMode c.1 = c.2 := by decide

/-- LD A,I and LD A,R: A takes the byte, PV is IFF2 and C is kept (R353, R354). -/
theorem completes_loadAIff {v : Byte} (h : exec i s = .next (s.loadAIff v)) : Completes i s fun t =>
    t.main.a = v ∧ FlagsAre t.main.f (v.getLsbD 7) (decide (v = 0)) false s.iff2 false s.main.f.c ∧
      UndocAre s t (v.getLsbD 5) (v.getLsbD 3) ∧ SameBut [.reg .a, .flags, .draws] s t := by
  obtain ⟨t, hexec, ha, ⟨hflags, hundoc⟩, hframe⟩ := completes_setReg_writeFlags (fun _ hw => hw) h
  rw [msb_eq_getLsbD] at hflags
  exact ⟨t, hexec, ha, hflags, hundoc, hframe⟩

/-- Settles O37: IM and the loads of I and R write one field, and LD A,I and LD A,R are one `loadAIff`. -/
theorem modeVectorRefresh : Obligations.ModeVectorRefresh :=
  ⟨decodes_imField, decodes_of_encode rfl rfl rfl, decodes_of_encode rfl rfl rfl, decodes_of_encode rfl rfl rfl,
    decodes_of_encode rfl rfl rfl, fun _ => ⟨fun c hc => ⟨_, rfl, imMode_table c hc, rfl⟩, ⟨_, rfl, rfl, rfl⟩,
      ⟨_, rfl, rfl, rfl⟩, completes_loadAIff rfl, completes_loadAIff rfl⟩⟩

end Sys2Proof.Machine
end

section
/-! PROOFS. The step of a decoded instruction in any environment, and the acknowledges of a quiet one, which are those of
`requestsDuringAStep` at edges that bring nothing (spec 60 R405 to R413; 70 R452, R453). -/

namespace Sys2Proof.Machine

variable {s t : State} {n : Nat}

/-- Settles O42: the fetch loop takes the bytes that the decoder takes, and the step runs what it fetched. -/
theorem stepRunsDecodedInstruction : Obligations.StepRunsDecodedInstruction := by
  intro s i left hk hr hh hd hdec
  obtain ⟨u, hfetch, hfetched, hframe⟩ := fetchDecode_of_decode s.beginStep hd hdec
  exact ⟨u, hfetched, hframe, step_of_fetchDecode hk hr hh hfetch⟩

/-! ## Edges that bring nothing -/

theorem Quiet.seen_eq (q : Quiet s) (n : Nat) : s.seen n = s := by
  obtain ⟨hclock, -⟩ := q
  rw [State.seen, hclock, List.take_nil]
  rfl

theorem Quiet.edges_eq_nil (q : Quiet s) (k n : Nat) : s.edges k n = [] := by
  obtain ⟨hclock, -⟩ := q
  rw [State.edges, hclock, List.take_nil, List.drop_nil]
  rfl

/-- The clock is as it was after an acknowledge, and no NMI is latched. -/
theorem Quiet.ackDuring (q : Quiet s) (h : AckDuring s n t) :
    t.clock = s.clock ∧ t.nmiLatch = false ∧ t.halted = false ∧ t.r = bumpR s.r ∧ t.iff1 = false := by
  obtain ⟨hclock, -, hnmi, hhalted, hr, hiff1⟩ := h
  rw [q.edges_eq_nil] at hnmi
  obtain ⟨hquiet, -⟩ := q
  exact ⟨by rw [hclock, hquiet, List.drop_nil], by simpa using hnmi, hhalted, hr, hiff1⟩

/-- After the acknowledge of an INT its latch stays clear, and nothing replaces the byte that was consumed. -/
theorem Quiet.ackAccepted (q : Quiet s) (h : AckAccepted s n t) :
    t.clock = s.clock ∧ t.nmiLatch = false ∧ t.intLatch = false ∧ t.halted = false ∧ t.r = bumpR s.r ∧
      t.intVector = none ∧ t.iff1 = false ∧ t.iff2 = false := by
  obtain ⟨hduring, hiff2, hint, hvec⟩ := h
  obtain ⟨hclock, hnmi, hhalted, hr, hiff1⟩ := q.ackDuring hduring
  rw [q.edges_eq_nil] at hint hvec
  exact ⟨hclock, hnmi, by simpa using hint, hhalted, hr, hvec, hiff1, hiff2⟩

/-! ## NMI -/

/-- Settles O48: in a quiet environment the NMI acknowledge keeps the INT latch, the vector byte and the clock, so its frame
leaves them out. -/
theorem nmiAcknowledge : Obligations.NmiAcknowledge := by
  intro s q hn
  obtain ⟨-, -, hrequests, -⟩ := requestsDuringAStep s q.requestsOnly
  obtain ⟨t, hcheck, hduring, hpc, hsp, hiff2, hint, hvec, hstores, hops, hframe⟩ := hrequests hn
  obtain ⟨hclock, hnmi, hhalted, hr, hiff1⟩ := q.ackDuring hduring
  have hint' : t.intLatch = s.intLatch := by
    replace hint : t.intLatch = true ↔ s.intLatch = true ∨ Signal.int ∈ s.edges 0 10 := hint
    rw [q.edges_eq_nil] at hint
    simpa [← Bool.eq_iff_iff] using hint
  rw [q.seen_eq] at hvec
  refine ⟨t, hcheck, hnmi, hhalted, hr, hiff2, hiff1, hpc, hsp, hstores, hops, ?_⟩
  simpa only [SameBut, List.cons_append, List.nil_append, List.foldl_cons, List.foldl_nil, Part.restore, hclock, hint',
    hvec] using hframe

/-! ## INT -/

/-- A frame puts its parts back one after the other. -/
theorem sameBut_append (ps qs : List Part) : SameBut (ps ++ qs) s t ↔ SameBut qs s (ps.foldl (Part.restore s) t) := by
  rw [SameBut, List.foldl_append]
  rfl

/-- What the acknowledge of an INT may change where nothing arrives, but for memory, SP, PC and the mode-0 byte. -/
def quietAcknowledgeParts : List Part := [.intLatch, .halted, .refreshR, .intVector, .iff1, .iff2, .ops, .timing]

/-- The frame of an acknowledge leaves out the clock and the NMI latch where they are as they were. -/
theorem SameBut.quietAcknowledge (ps : List Part) (hclock : (ps.foldl (Part.restore s) t).clock = s.clock)
    (hnmi : (ps.foldl (Part.restore s) t).nmiLatch = s.nmiLatch) (h : SameBut (ps ++ acknowledgeParts) s t) :
    SameBut (ps ++ quietAcknowledgeParts) s t := by
  rw [sameBut_append] at h ⊢
  generalize ps.foldl (Part.restore s) t = u at *
  simpa only [SameBut, acknowledgeParts, quietAcknowledgeParts, List.foldl_cons, List.foldl_nil, Part.restore, hclock,
    hnmi] using h

/-- Settles O49: in a quiet environment the byte is the one in `int_vector` before the acknowledge, and every mode keeps the
NMI latch and the clock, so its frame leaves them out. -/
theorem intAcknowledge : Obligations.IntAcknowledge := by
  refine ⟨rfl, decodes_of_encode rfl rfl rfl, fun s q hn => ⟨State.interruptCheck_of_none hn, fun hi hiff => ?_⟩⟩
  obtain ⟨-, -, -, hrequests⟩ := requestsDuringAStep s q.requestsOnly
  obtain ⟨t, hcheck, hmode⟩ := hrequests hn hi hiff
  rw [q.seen_eq] at hmode
  generalize s.im = m at hmode ⊢
  obtain ⟨n, hacc⟩ : ∃ n, AckAccepted s n t := by
    cases m with
    | mode0 => exact ⟨4, hmode.1⟩
    | mode1 => exact ⟨10, hmode.1⟩
    | mode2 => exact ⟨16, hmode.1⟩
  obtain ⟨hclock, hnmi, hint, hhalted, hr, hvec, hiff1, hiff2⟩ := q.ackAccepted hacc
  rw [← hn] at hnmi
  refine ⟨t, hcheck, hint, hhalted, hr, hvec, hiff1, hiff2, ?_⟩
  cases m with
  | mode0 =>
    obtain ⟨-, hbyte, hops, hframe⟩ := hmode
    have hhead : t.upcoming.head? = some (s.intVector.getD s.cfg.intNoVector) := by
      rw [State.upcoming_of_some hbyte, List.head?_cons]
    exact ⟨hbyte, hhead, hops, SameBut.quietAcknowledge [.mode0Byte] hclock hnmi hframe⟩
  | mode1 =>
    obtain ⟨-, hpc, hsp, hstores, hops, hframe⟩ := hmode
    exact ⟨hpc, hsp, hstores, hops, SameBut.quietAcknowledge [.pc, .sp, .mem] hclock hnmi hframe⟩
  | mode2 =>
    obtain ⟨-, hpc, hsp, hstores, hops, hframe⟩ := hmode
    exact ⟨hpc, hsp, hstores, hops, SameBut.quietAcknowledge [.pc, .sp, .mem] hclock hnmi hframe⟩

end Sys2Proof.Machine
end
